-- ==== Sys2Proof/Word.lean ====
section
/-! DEFINITION. The two word types of CORE: an 8-bit byte (`XLEN`) and a 16-bit address (`ADDR_W`),
spec/00_scope.md R4, R9. -/

namespace Sys2Proof

/-- A register, a memory cell or an operand byte: an unsigned 8-bit value (R9). -/
abbrev Byte := BitVec 8

/-- The program counter or an address: an unsigned 16-bit value (R9). -/
abbrev Addr := BitVec 16

end Sys2Proof
end

