-- ==== Sys2Proof/Config.lean ====
section
/-! DEFINITION. What an implementation of CORE fixes (spec/00_scope.md R4). The opcode table, which is a
parameter too, stands in Sys2Proof/Decode.lean. The spec leaves no value free, so there is no opaque constant. -/

namespace Sys2Proof

/-- Where the second byte of a zero-page pointer at 0x00FF is read from
(parameter `PTR_HI`, 92_eei_decisions.md D3, 93_implementation_defined.md U7). -/
inductive PtrHi where
  /-- at the next 16-bit address, 0x0100 -/
  | linear
  /-- at the next address inside page zero, 0x0000 -/
  | page0
  deriving DecidableEq, Repr

/-- The value rule R54 takes (decision D3). DESIGN CHOICE (the spec's D3), unsafe, log 7. -/
def Config.ptrHi : PtrHi := .linear

/-- The vector of the one reset that `State.reset` stands for. The spec makes it an input of `Reset`
(R201); 0xE000 is its one example. DESIGN CHOICE, unsafe, log 1. -/
def Config.resetVector : Addr := 0xE000

/-- The width of `REM` and `CYC` (parameter `CYCLE_W`, R27). `none`: mathematical integers, as R27 gives the
model; `some w`: a hardware realisation, which refuses budgets above `2^(w-1) - 6` (and those below the range, log 25).
DESIGN CHOICE (the spec's D1), unsafe for a chip of finite width, log 13. -/
def Config.cycleWidth : Option Nat := none

end Sys2Proof
end

