-- ==== Sys2Proof/Syntax.lean ====
section
/-! DEFINITION. The instructions of CORE: one constructor per row of spec/opcode_table.json, in the table's order
(spec/30_encoding.md R78). An operand byte is held as it stands; a two-byte operand is held assembled,
`{hi8, lo8}` (R74). -/

namespace Sys2Proof

/-- The 35 instructions (R76, R78). -/
inductive Instr where
  /-- `LDA #imm8`, R131 -/
  | ldaImm (imm8 : Byte)
  /-- `LDA zp8`, R132 -/
  | ldaZp (zp8 : Byte)
  /-- `LDA zp8,X`, R133 -/
  | ldaZpX (zp8 : Byte)
  /-- `LDA abs16`, R134 -/
  | ldaAbs (abs16 : Addr)
  /-- `LDA abs16,X`, R135 -/
  | ldaAbsX (abs16 : Addr)
  /-- `LDA abs16,Y`, R136 -/
  | ldaAbsY (abs16 : Addr)
  /-- `LDA (zp8,X)`, R137 -/
  | ldaIndX (zp8 : Byte)
  /-- `LDA (zp8),Y`, R138 -/
  | ldaIndY (zp8 : Byte)
  /-- `LDX #imm8`, R139 -/
  | ldxImm (imm8 : Byte)
  /-- `LDX zp8`, R140 -/
  | ldxZp (zp8 : Byte)
  /-- `LDX zp8,Y`, R141 -/
  | ldxZpY (zp8 : Byte)
  /-- `LDX abs16`, R142 -/
  | ldxAbs (abs16 : Addr)
  /-- `LDX abs16,Y`, R143 -/
  | ldxAbsY (abs16 : Addr)
  /-- `LDY #imm8`, R144 -/
  | ldyImm (imm8 : Byte)
  /-- `LDY zp8`, R145 -/
  | ldyZp (zp8 : Byte)
  /-- `LDY zp8,X`, R146 -/
  | ldyZpX (zp8 : Byte)
  /-- `LDY abs16`, R147 -/
  | ldyAbs (abs16 : Addr)
  /-- `LDY abs16,X`, R148 -/
  | ldyAbsX (abs16 : Addr)
  /-- `STA zp8`, R151 -/
  | staZp (zp8 : Byte)
  /-- `STA zp8,X`, R152 -/
  | staZpX (zp8 : Byte)
  /-- `STA abs16`, R153 -/
  | staAbs (abs16 : Addr)
  /-- `STA abs16,X`, R154 -/
  | staAbsX (abs16 : Addr)
  /-- `STA abs16,Y`, R155 -/
  | staAbsY (abs16 : Addr)
  /-- `STA (zp8,X)`, R156 -/
  | staIndX (zp8 : Byte)
  /-- `STA (zp8),Y`, R157 -/
  | staIndY (zp8 : Byte)
  /-- `STX zp8`, R158 -/
  | stxZp (zp8 : Byte)
  /-- `STX zp8,Y`, R159 -/
  | stxZpY (zp8 : Byte)
  /-- `STX abs16`, R160 -/
  | stxAbs (abs16 : Addr)
  /-- `STY zp8`, R161 -/
  | styZp (zp8 : Byte)
  /-- `STY zp8,X`, R162 -/
  | styZpX (zp8 : Byte)
  /-- `STY abs16`, R163 -/
  | styAbs (abs16 : Addr)
  /-- `TAX`, R171 -/
  | tax
  /-- `TAY`, R172 -/
  | tay
  /-- `TXA`, R173 -/
  | txa
  /-- `TYA`, R174 -/
  | tya
  deriving DecidableEq, Repr

end Sys2Proof
end

