-- ==== Sys2Proof/WellFormed.lean ====
section
/-! DEFINITION. The operations, addressing modes and formats of CORE, an instruction as (operation, mode, operand), and
which such forms are instructions (spec/30_encoding.md R70 to R76, R80). -/

namespace Sys2Proof

/-- The ten operations (00_scope.md section 7). -/
inductive Operation where
  | lda | ldx | ldy | sta | stx | sty | tax | tay | txa | tya
  deriving DecidableEq, Repr

/-- The ten addressing modes (00_scope.md section 7). -/
inductive Mode where
  | imp | imm | zp | zpx | zpy | abs | absx | absy | indx | indy
  deriving DecidableEq, Repr

/-- The four instruction formats (R71). -/
inductive Format where
  | f1 | f2i | f2z | f3
  deriving DecidableEq, Repr

/-- An assembled operand (R74): none, the byte `imm8` or `zp8`, or the 16-bit `{hi8, lo8}`. -/
inductive Operand where
  | none
  | byte (b : Byte)
  | word (w : Addr)
  deriving DecidableEq, Repr

/-- An instruction as what its opcode byte selects, (operation, mode), and its operand (R72). It can name combinations
that are no instruction. -/
structure Form where
  operation : Operation
  mode : Mode
  operand : Operand
  deriving DecidableEq, Repr

/-- The modes an operation is paired with: the rows of the table of R76. -/
def Operation.modes : Operation → List Mode
  | .lda => [.imm, .zp, .zpx, .abs, .absx, .absy, .indx, .indy]
  | .ldx => [.imm, .zp, .zpy, .abs, .absy]
  | .ldy => [.imm, .zp, .zpx, .abs, .absx]
  | .sta => [.zp, .zpx, .abs, .absx, .absy, .indx, .indy]
  | .stx => [.zp, .zpy, .abs]
  | .sty => [.zp, .zpx, .abs]
  | .tax | .tay | .txa | .tya => [.imp]

/-- The operand has the shape the mode's format gives it (R71, R72, R74). Its value is never checked (R80). -/
def Operand.fits : Operand → Mode → Bool
  | .none, .imp => true
  | .byte _, .imm | .byte _, .zp | .byte _, .zpx | .byte _, .zpy | .byte _, .indx | .byte _, .indy => true
  | .word _, .abs | .word _, .absx | .word _, .absy => true
  | .none, _ | .byte _, _ | .word _, _ => false

/-- The form is one of the 35 instructions with an operand of its shape. -/
def Form.wellFormed (f : Form) : Bool :=
  f.operation.modes.contains f.mode && f.operand.fits f.mode

/-- What an instruction is: its operation, mode and operand (the columns of R78). -/
def Instr.form : Instr → Form
  | .ldaImm imm8 => ⟨.lda, .imm, .byte imm8⟩
  | .ldaZp zp8 => ⟨.lda, .zp, .byte zp8⟩
  | .ldaZpX zp8 => ⟨.lda, .zpx, .byte zp8⟩
  | .ldaAbs abs16 => ⟨.lda, .abs, .word abs16⟩
  | .ldaAbsX abs16 => ⟨.lda, .absx, .word abs16⟩
  | .ldaAbsY abs16 => ⟨.lda, .absy, .word abs16⟩
  | .ldaIndX zp8 => ⟨.lda, .indx, .byte zp8⟩
  | .ldaIndY zp8 => ⟨.lda, .indy, .byte zp8⟩
  | .ldxImm imm8 => ⟨.ldx, .imm, .byte imm8⟩
  | .ldxZp zp8 => ⟨.ldx, .zp, .byte zp8⟩
  | .ldxZpY zp8 => ⟨.ldx, .zpy, .byte zp8⟩
  | .ldxAbs abs16 => ⟨.ldx, .abs, .word abs16⟩
  | .ldxAbsY abs16 => ⟨.ldx, .absy, .word abs16⟩
  | .ldyImm imm8 => ⟨.ldy, .imm, .byte imm8⟩
  | .ldyZp zp8 => ⟨.ldy, .zp, .byte zp8⟩
  | .ldyZpX zp8 => ⟨.ldy, .zpx, .byte zp8⟩
  | .ldyAbs abs16 => ⟨.ldy, .abs, .word abs16⟩
  | .ldyAbsX abs16 => ⟨.ldy, .absx, .word abs16⟩
  | .staZp zp8 => ⟨.sta, .zp, .byte zp8⟩
  | .staZpX zp8 => ⟨.sta, .zpx, .byte zp8⟩
  | .staAbs abs16 => ⟨.sta, .abs, .word abs16⟩
  | .staAbsX abs16 => ⟨.sta, .absx, .word abs16⟩
  | .staAbsY abs16 => ⟨.sta, .absy, .word abs16⟩
  | .staIndX zp8 => ⟨.sta, .indx, .byte zp8⟩
  | .staIndY zp8 => ⟨.sta, .indy, .byte zp8⟩
  | .stxZp zp8 => ⟨.stx, .zp, .byte zp8⟩
  | .stxZpY zp8 => ⟨.stx, .zpy, .byte zp8⟩
  | .stxAbs abs16 => ⟨.stx, .abs, .word abs16⟩
  | .styZp zp8 => ⟨.sty, .zp, .byte zp8⟩
  | .styZpX zp8 => ⟨.sty, .zpx, .byte zp8⟩
  | .styAbs abs16 => ⟨.sty, .abs, .word abs16⟩
  | .tax => ⟨.tax, .imp, .none⟩
  | .tay => ⟨.tay, .imp, .none⟩
  | .txa => ⟨.txa, .imp, .none⟩
  | .tya => ⟨.tya, .imp, .none⟩

/-- An instruction is well-formed when its form is. Every term of `Instr` is, since every operand value is
legal (R80); the ill-formed terms are forms. -/
def Instr.wellFormed (i : Instr) : Bool := i.form.wellFormed

end Sys2Proof
end

