-- ==== Sys2Proof/Decode.lean ====
section
/-! DEFINITION. From bytes to instructions and back (spec/30_encoding.md). `OPTABLE` is data: a list of rows
(R72); `decode` looks the opcode byte up and takes the operand bytes of the mode's format; `encode` is written from
the encoding line of each instruction's own rule (R131 to R174). -/

namespace Sys2Proof

/-- `lo8(w)`, bits 7 to 0 (R9). -/
def lo8 (w : Addr) : Byte := w.extractLsb' 0 8

/-- `hi8(w)`, bits 15 to 8 (R9). -/
def hi8 (w : Addr) : Byte := w.extractLsb' 8 8

/-- `{h, l} = h * 256 + l` (R9): a two-byte quantity from its two bytes. -/
def pair (h l : Byte) : Addr := h ++ l

/-- One entry of `OPTABLE`: (opcode byte) to (operation, mode) (R72, R75). -/
structure OpRow where
  opcode : Byte
  operation : Operation
  mode : Mode
  deriving DecidableEq, Repr

/-- A candidate `OPTABLE` (R75, R77). -/
abbrev OpTable := List OpRow

/-- The decoder of R112: the entry of an opcode byte, or nothing. It reads only the byte. -/
def OpTable.lookup : OpTable → Byte → Option (Operation × Mode)
  | [], _ => none
  | r :: rest, op => if r.opcode = op then some (r.operation, r.mode) else OpTable.lookup rest op

/-- The default `OPTABLE` (R78). Its byte values and pairs are the spec's decision D2, from general knowledge:
UNVERIFIED, unsafe for claims about bytes, log 6. -/
def opTable : OpTable :=
  [
   ⟨0xA9, .lda, .imm⟩,
   ⟨0xA5, .lda, .zp⟩,
   ⟨0xB5, .lda, .zpx⟩,
   ⟨0xAD, .lda, .abs⟩,
   ⟨0xBD, .lda, .absx⟩,
   ⟨0xB9, .lda, .absy⟩,
   ⟨0xA1, .lda, .indx⟩,
   ⟨0xB1, .lda, .indy⟩,
   ⟨0xA2, .ldx, .imm⟩,
   ⟨0xA6, .ldx, .zp⟩,
   ⟨0xB6, .ldx, .zpy⟩,
   ⟨0xAE, .ldx, .abs⟩,
   ⟨0xBE, .ldx, .absy⟩,
   ⟨0xA0, .ldy, .imm⟩,
   ⟨0xA4, .ldy, .zp⟩,
   ⟨0xB4, .ldy, .zpx⟩,
   ⟨0xAC, .ldy, .abs⟩,
   ⟨0xBC, .ldy, .absx⟩,
   ⟨0x85, .sta, .zp⟩,
   ⟨0x95, .sta, .zpx⟩,
   ⟨0x8D, .sta, .abs⟩,
   ⟨0x9D, .sta, .absx⟩,
   ⟨0x99, .sta, .absy⟩,
   ⟨0x81, .sta, .indx⟩,
   ⟨0x91, .sta, .indy⟩,
   ⟨0x86, .stx, .zp⟩,
   ⟨0x96, .stx, .zpy⟩,
   ⟨0x8E, .stx, .abs⟩,
   ⟨0x84, .sty, .zp⟩,
   ⟨0x94, .sty, .zpx⟩,
   ⟨0x8C, .sty, .abs⟩,
   ⟨0xAA, .tax, .imp⟩,
   ⟨0xA8, .tay, .imp⟩,
   ⟨0x8A, .txa, .imp⟩,
   ⟨0x98, .tya, .imp⟩
  ]

/-- The entry's pair has a meaning: the transfers and only they are implied (R90, R170), no store is immediate (R76, R150). -/
def OpRow.meaningful (r : OpRow) : Bool :=
  match r.operation with
  | .lda | .ldx | .ldy => r.mode != .imp
  | .sta | .stx | .sty => r.mode != .imp && r.mode != .imm
  | .tax | .tay | .txa | .tya => r.mode == .imp

/-- What R75 lets a model assume of any `OPTABLE`: one entry per opcode byte, one opcode byte per (operation, mode), 0x02
outside it, and pairs that have a meaning. -/
abbrev OpTable.Valid (t : OpTable) : Prop :=
  t.Pairwise (fun r q => r.opcode ≠ q.opcode) ∧
  t.Pairwise (fun r q => (r.operation, r.mode) ≠ (q.operation, q.mode)) ∧
  t.lookup 0x02 = none ∧
  ∀ r ∈ t, r.meaningful = true

/-- The format of a mode (the table of R72). -/
def Mode.format : Mode → Format
  | .imp => .f1
  | .imm => .f2i
  | .zp | .zpx | .zpy | .indx | .indy => .f2z
  | .abs | .absx | .absy => .f3

/-- The length in bytes of a format (R71, R72). -/
def Format.length : Format → Nat
  | .f1 => 1
  | .f2i | .f2z => 2
  | .f3 => 3

/-- The length in bytes of an instruction (R72): its mode's format's. -/
def Instr.length (i : Instr) : Nat := i.form.mode.format.length

/-- Why bytes are no instruction. -/
inductive DecodeError where
  /-- there is no byte at all -/
  | empty
  /-- the first byte is not in `OPTABLE` (R79) -/
  | unknownOpcode (op : Byte)
  /-- the opcode is known and its operand bytes are missing -/
  | truncated (op : Byte)
  /-- the table pairs an operation with a mode that no instruction of `Instr` has: never with the default table -/
  | noSuchInstruction (op : Byte)
  deriving DecidableEq, Repr

/-- The operand of a format, and the bytes after it (R71, R74): the low byte of a two-byte operand comes first. -/
def Format.takeOperand : Format → List Byte → Option (Operand × List Byte)
  | .f1, bs => some (.none, bs)
  | .f2i, b :: bs => some (.byte b, bs)
  | .f2z, b :: bs => some (.byte b, bs)
  | .f3, l :: h :: bs => some (.word (pair h l), bs)
  | .f2i, [] | .f2z, [] | .f3, [] | .f3, [_] => none

/-- The instruction a form is, if it is one (the rows of R78). -/
def Form.instr? (f : Form) : Option Instr :=
  match f.operation, f.mode, f.operand with
  | .lda, .imm, .byte imm8 => some (.ldaImm imm8)
  | .lda, .zp, .byte zp8 => some (.ldaZp zp8)
  | .lda, .zpx, .byte zp8 => some (.ldaZpX zp8)
  | .lda, .abs, .word abs16 => some (.ldaAbs abs16)
  | .lda, .absx, .word abs16 => some (.ldaAbsX abs16)
  | .lda, .absy, .word abs16 => some (.ldaAbsY abs16)
  | .lda, .indx, .byte zp8 => some (.ldaIndX zp8)
  | .lda, .indy, .byte zp8 => some (.ldaIndY zp8)
  | .ldx, .imm, .byte imm8 => some (.ldxImm imm8)
  | .ldx, .zp, .byte zp8 => some (.ldxZp zp8)
  | .ldx, .zpy, .byte zp8 => some (.ldxZpY zp8)
  | .ldx, .abs, .word abs16 => some (.ldxAbs abs16)
  | .ldx, .absy, .word abs16 => some (.ldxAbsY abs16)
  | .ldy, .imm, .byte imm8 => some (.ldyImm imm8)
  | .ldy, .zp, .byte zp8 => some (.ldyZp zp8)
  | .ldy, .zpx, .byte zp8 => some (.ldyZpX zp8)
  | .ldy, .abs, .word abs16 => some (.ldyAbs abs16)
  | .ldy, .absx, .word abs16 => some (.ldyAbsX abs16)
  | .sta, .zp, .byte zp8 => some (.staZp zp8)
  | .sta, .zpx, .byte zp8 => some (.staZpX zp8)
  | .sta, .abs, .word abs16 => some (.staAbs abs16)
  | .sta, .absx, .word abs16 => some (.staAbsX abs16)
  | .sta, .absy, .word abs16 => some (.staAbsY abs16)
  | .sta, .indx, .byte zp8 => some (.staIndX zp8)
  | .sta, .indy, .byte zp8 => some (.staIndY zp8)
  | .stx, .zp, .byte zp8 => some (.stxZp zp8)
  | .stx, .zpy, .byte zp8 => some (.stxZpY zp8)
  | .stx, .abs, .word abs16 => some (.stxAbs abs16)
  | .sty, .zp, .byte zp8 => some (.styZp zp8)
  | .sty, .zpx, .byte zp8 => some (.styZpX zp8)
  | .sty, .abs, .word abs16 => some (.styAbs abs16)
  | .tax, .imp, .none => some .tax
  | .tay, .imp, .none => some .tay
  | .txa, .imp, .none => some .txa
  | .tya, .imp, .none => some .tya
  | _, _, _ => none

/-- The instruction at the head of a list of bytes, and the bytes after it; total, refusing by name (R70, R72, R79). -/
def decode : List Byte → Except DecodeError (Instr × List Byte)
  | [] => .error .empty
  | op :: bs =>
    match opTable.lookup op with
    | none => .error (.unknownOpcode op)
    | some (operation, mode) =>
      match mode.format.takeOperand bs with
      | none => .error (.truncated op)
      | some (operand, rest) =>
        match Form.instr? ⟨operation, mode, operand⟩ with
        | none => .error (.noSuchInstruction op)
        | some i => .ok (i, rest)

/-- The bytes of an instruction at ascending addresses (the encoding line of each rule R131 to R174, formats of R71). -/
def encode : Instr → List Byte
  | .ldaImm imm8 => [0xA9, imm8]
  | .ldaZp zp8 => [0xA5, zp8]
  | .ldaZpX zp8 => [0xB5, zp8]
  | .ldaAbs abs16 => [0xAD, lo8 abs16, hi8 abs16]
  | .ldaAbsX abs16 => [0xBD, lo8 abs16, hi8 abs16]
  | .ldaAbsY abs16 => [0xB9, lo8 abs16, hi8 abs16]
  | .ldaIndX zp8 => [0xA1, zp8]
  | .ldaIndY zp8 => [0xB1, zp8]
  | .ldxImm imm8 => [0xA2, imm8]
  | .ldxZp zp8 => [0xA6, zp8]
  | .ldxZpY zp8 => [0xB6, zp8]
  | .ldxAbs abs16 => [0xAE, lo8 abs16, hi8 abs16]
  | .ldxAbsY abs16 => [0xBE, lo8 abs16, hi8 abs16]
  | .ldyImm imm8 => [0xA0, imm8]
  | .ldyZp zp8 => [0xA4, zp8]
  | .ldyZpX zp8 => [0xB4, zp8]
  | .ldyAbs abs16 => [0xAC, lo8 abs16, hi8 abs16]
  | .ldyAbsX abs16 => [0xBC, lo8 abs16, hi8 abs16]
  | .staZp zp8 => [0x85, zp8]
  | .staZpX zp8 => [0x95, zp8]
  | .staAbs abs16 => [0x8D, lo8 abs16, hi8 abs16]
  | .staAbsX abs16 => [0x9D, lo8 abs16, hi8 abs16]
  | .staAbsY abs16 => [0x99, lo8 abs16, hi8 abs16]
  | .staIndX zp8 => [0x81, zp8]
  | .staIndY zp8 => [0x91, zp8]
  | .stxZp zp8 => [0x86, zp8]
  | .stxZpY zp8 => [0x96, zp8]
  | .stxAbs abs16 => [0x8E, lo8 abs16, hi8 abs16]
  | .styZp zp8 => [0x84, zp8]
  | .styZpX zp8 => [0x94, zp8]
  | .styAbs abs16 => [0x8C, lo8 abs16, hi8 abs16]
  | .tax => [0xAA]
  | .tay => [0xA8]
  | .txa => [0x8A]
  | .tya => [0x98]

/-- The three bytes, lowest address first, of an instruction whose bits are `w`, byte 0 the least significant, and
whose bits from `nbits` up are 0 (the numbering of spec/opcode_table.json). -/
def tableBytes (nbits w : Nat) : List Byte :=
  let v : BitVec 24 := BitVec.ofNat 24 (w % 2 ^ nbits)
  [v.extractLsb' 0 8, v.extractLsb' 8 8, v.extractLsb' 16 8]

/-- The instruction the decoder reads from those bytes. -/
def decodeTableWord (nbits w : Nat) : Option Instr :=
  match decode (tableBytes nbits w) with
  | .ok (i, _) => some i
  | .error _ => none

end Sys2Proof
end

