-- ==== Sys2Proof/Machine/State.lean ====
section
/-! DEFINITION. The state of CORE as plain data (spec/10_state.md R10), why a step or a host transaction stops, and the
state after reset (R30, spec/70_reset_and_hazards.md R200). -/

namespace Sys2Proof.Machine

/-- The three general registers (R11, R12, R13). -/
inductive Reg where
  | a | x | y
  deriving DecidableEq, Repr

/-- The eight status flags, each on its own (R16). The packed byte `PS` is a view of them (R18), Machine/Flags.lean. -/
structure Flags where
  /-- carry -/
  c : Bool
  /-- zero -/
  z : Bool
  /-- interrupt-disable -/
  i : Bool
  /-- decimal-mode -/
  d : Bool
  /-- break -/
  b : Bool
  /-- the unused bit -/
  u : Bool
  /-- overflow -/
  v : Bool
  /-- negative -/
  n : Bool
  deriving DecidableEq, Repr

/-- The state of the dispatch engine (R23). -/
inductive Phase where
  /-- at an instruction boundary -/
  | fetching
  /-- an instruction is in progress: only inside a step -/
  | executing
  /-- the last step fetched an unrecognised opcode -/
  | halted
  deriving DecidableEq, Repr

/-- The memory `M` (R28): the cells that do not hold what an unlisted address reads as, addresses strictly rising
(`Memory.wf`, Machine/Memory.lean). -/
abbrev Memory := List Host.Cell

/-- The state of the machine, "the tuple below and nothing else" (R10). -/
structure State where
  /-- `A` (R11) -/
  a : Byte
  /-- `X` (R12) -/
  x : Byte
  /-- `Y` (R13) -/
  y : Byte
  /-- `SP` (R14) -/
  sp : Byte
  /-- `PC` (R15) -/
  pc : Addr
  /-- the flags (R16 to R22) -/
  flags : Flags
  /-- `PHASE` (R23) -/
  phase : Phase
  /-- `REM`, the remaining budget (R24, R27) -/
  rem : Int
  /-- `CYC`, the consumed cycles (R25, R27) -/
  cyc : Int
  /-- `M` (R28) -/
  mem : Memory
  deriving DecidableEq, Repr

/-- Why `step` stops: no step is enabled (R111). The spec gives the engine no move there until the host acts, so each
is a stuck state: SAFE (log 2). No instruction raises one. -/
inductive Fault where
  /-- `step`, in `Fetching` with `REM <= 0`: the run is over, outcome `Exhausted` (R116, R119). Safe. -/
  | exhausted
  /-- `step`, in `Halted`: the run is over, outcome `HaltedUnknownOpcode` (R119, R185). Safe. -/
  | halted
  /-- `step`, in `Executing`, which is never the state between two steps (R23, R115). Safe (log 16). -/
  | midInstruction
  deriving DecidableEq, Repr

/-- Why something is refused. -/
inductive Refusal where
  /-- `exec`, for an instruction without a meaning: safe. No arm answers so. -/
  | notModelled (mnemonic : String)
  /-- A transaction other than `Reset` before the first reset (R31, decision D13), raised by `transact`: safe. -/
  | beforeReset
  /-- A transaction while a run is in progress (R8, R205, decision D11), raised by `transact`: safe. -/
  | runInProgress
  /-- `Run` with a budget that counters of `Config.cycleWidth` bits cannot take (R27, decision D1; below their range the
  model's own choice, log 25), raised by `transact`: safe. -/
  | budgetTooLarge
  deriving DecidableEq, Repr

/-- The state after `Reset(vector)`, for every vector (R200, R30). `REM` and `CYC` are 0 by the spec's decision D12:
DESIGN CHOICE, unsafe, log 15. -/
def State.resetTo (vector : Addr) : State where
  a := 0x00
  x := 0x00
  y := 0x00
  sp := 0xFF
  pc := vector
  flags := ⟨false, false, false, false, false, false, false, false⟩
  phase := .fetching
  rem := 0
  cyc := 0
  mem := []

/-- The state after reset at the vector the model names: DESIGN CHOICE, unsafe, log 1. -/
def State.reset : State := State.resetTo Config.resetVector

end Sys2Proof.Machine
end

