-- ==== Sys2Proof/Machine/Flags.lean ====
section
/-! DEFINITION. The flags of CORE: the packed byte `PS` and the single bits as two views of one thing, and the one
flag computation, `SetZN` (spec/10_state.md R16 to R22). -/

namespace Sys2Proof.Machine

/-- The names of the flags (R16). -/
inductive FlagName where
  | c | z | i | d | b | u | v | n
  deriving DecidableEq, Repr

/-- The bit a flag has in `PS` (R17). The positions are the spec's decision D5: DESIGN CHOICE, unsafe for the packed
byte only, log 9. -/
def FlagName.bit : FlagName → Nat
  | .c => 0
  | .z => 1
  | .i => 2
  | .d => 3
  | .b => 4
  | .u => 5
  | .v => 6
  | .n => 7

/-- Read one flag (R18). -/
def Flags.get (f : Flags) : FlagName → Bool
  | .c => f.c
  | .z => f.z
  | .i => f.i
  | .d => f.d
  | .b => f.b
  | .u => f.u
  | .v => f.v
  | .n => f.n

/-- Write one flag (R18). -/
def Flags.set (f : Flags) (name : FlagName) (x : Bool) : Flags :=
  match name with
  | .c => { f with c := x }
  | .z => { f with z := x }
  | .i => { f with i := x }
  | .d => { f with d := x }
  | .b => { f with b := x }
  | .u => { f with u := x }
  | .v => { f with v := x }
  | .n => { f with n := x }

/-- `PS = {N, V, U, B, D, I, Z, C}` (R17): reading the packed view. -/
def Flags.pack (f : Flags) : Byte :=
  BitVec.ofBool f.n ++ BitVec.ofBool f.v ++ BitVec.ofBool f.u ++ BitVec.ofBool f.b ++
  BitVec.ofBool f.d ++ BitVec.ofBool f.i ++ BitVec.ofBool f.z ++ BitVec.ofBool f.c

/-- Writing the packed view (R18): the flags a packed byte stands for. -/
def Flags.unpack (ps : Byte) : Flags where
  c := ps.getLsbD FlagName.c.bit
  z := ps.getLsbD FlagName.z.bit
  i := ps.getLsbD FlagName.i.bit
  d := ps.getLsbD FlagName.d.bit
  b := ps.getLsbD FlagName.b.bit
  u := ps.getLsbD FlagName.u.bit
  v := ps.getLsbD FlagName.v.bit
  n := ps.getLsbD FlagName.n.bit

/-- `PS` of a state (R17). -/
def State.ps (s : State) : Byte := s.flags.pack

/-- Writing `PS` of a state (R18): an accessor no instruction and no transaction uses. -/
def State.setPs (ps : Byte) (s : State) : State := { s with flags := Flags.unpack ps }

/-- `SetZN(v)` on the flags (R20): `Z <- (v = 0)`, `N <- v[7]`, the six others kept. -/
def Flags.setZN (v : Byte) (f : Flags) : Flags := { f with z := decide (v = 0x00), n := v.getLsbD 7 }

/-- `SetZN(v)` (R20): writes `Z` and `N` and nothing else, charges no cycle. -/
def setZN (v : Byte) (s : State) : State := { s with flags := s.flags.setZN v }

end Sys2Proof.Machine
end

