-- ==== Sys2Proof/Machine/Memory.lean ====
section
/-! DEFINITION. The memory of CORE as a map (spec/10_state.md R28, spec/20_memory.md R40 to R45): reading and writing one
cell, and the canonical form that makes equal memories equal data. -/

namespace Sys2Proof.Machine

/-- What an unlisted address reads as: what reset leaves in every cell (R30, R200). -/
def Memory.unlisted : Byte := 0x00

/-- The cell at a listed address, else what an unlisted one reads as. -/
def Memory.lookup : Memory → Nat → Byte
  | [], _ => Memory.unlisted
  | (k, v) :: rest, a => if k = a then v else Memory.lookup rest a

/-- List the cell `(a, v)` in its place. -/
def Memory.insert : Memory → Nat → Byte → Memory
  | [], a, v => [(a, v)]
  | (k, w) :: rest, a, v =>
    if a < k then (a, v) :: (k, w) :: rest
    else if k = a then (a, v) :: rest
    else (k, w) :: Memory.insert rest a v

/-- `M[addr]` (R42): every address has a value. -/
def Memory.read (m : Memory) (addr : Addr) : Byte := Memory.lookup m addr.toNat

/-- `M[addr] <- v` (R42): writing what an unlisted address reads as removes the entry. -/
def Memory.write (m : Memory) (addr : Addr) (v : Byte) : Memory :=
  if v = Memory.unlisted then m.filter (fun c => c.1 ≠ addr.toNat) else Memory.insert m addr.toNat v

/-- The canonical form: addresses strictly rising and inside the 65,536 cells (R41), no entry equal to what an unlisted
address reads as. -/
abbrev Memory.wf (m : Memory) : Prop :=
  m.Pairwise (fun c d => c.1 < d.1) ∧ ∀ c ∈ m, c.1 < 65536 ∧ c.2 ≠ Memory.unlisted

end Sys2Proof.Machine
end

