-- ==== Sys2Proof/Machine/Ops.lean ====
section
/-! DEFINITION. The named operations of CORE over registers, counters and memory: the primitives of spec/20_memory.md R49
to R55, the frame of a step (spec/41_dispatch.md R111, R113), taking the one exception (spec/60_exceptions.md R181), and the
start of a run (R110). There is no return from an exception (R185). -/

namespace Sys2Proof.Machine

/-- Read a general register (R11 to R13). -/
def getReg (s : State) : Reg → Byte
  | .a => s.a
  | .x => s.x
  | .y => s.y

/-- `r <- v`, for a general register (R11 to R13). -/
def setReg (r : Reg) (v : Byte) (s : State) : State :=
  match r with
  | .a => { s with a := v }
  | .x => { s with x := v }
  | .y => { s with y := v }

/-- `Charge(n)` (R49). -/
def charge (n : Int) (s : State) : State := { s with rem := s.rem - n, cyc := s.cyc + n }

/-- `Tick()` (R49): an internal cycle; it makes no memory access (log 22). -/
def tick (s : State) : State := charge 1 s

/-- `FetchByte()` (R50): the byte at `PC`, and the state after; `PC` wraps (R15, R43). -/
def fetchByte (s : State) : Byte × State := (s.mem.read s.pc, charge 1 { s with pc := s.pc + 1 })

/-- `FetchWord()` (R51): low byte first. -/
def fetchWord (s : State) : Addr × State :=
  let lo := fetchByte s
  let hi := fetchByte lo.2
  (pair hi.1 lo.1, hi.2)

/-- `ReadByte(addr)` (R53). -/
def readByte (addr : Addr) (s : State) : Byte × State := (s.mem.read addr, charge 1 s)

/-- Where the second byte of a two-byte quantity at `addr` is read from (R54): `addr +16 1`, or, under the other value of
the parameter `PTR_HI`, the next address of page zero (log 7). -/
def secondByteAddr (addr : Addr) : Addr :=
  match Config.ptrHi with
  | .linear => addr + 1
  | .page0 => (lo8 addr + 1).zeroExtend 16

/-- `ReadWord(addr)` (R54): low byte at `addr` (R46, log 8), high byte after it. -/
def readWord (addr : Addr) (s : State) : Addr × State :=
  let lo := readByte addr s
  let hi := readByte (secondByteAddr addr) lo.2
  (pair hi.1 lo.1, hi.2)

/-- `WriteByte(addr, v)` (R55). -/
def writeByte (addr : Addr) (v : Byte) (s : State) : State := charge 1 { s with mem := s.mem.write addr v }

/-- `StepEnabled()` (R111): at an instruction boundary with budget left. -/
abbrev StepEnabled (s : State) : Prop := s.phase = .fetching ∧ 0 < s.rem

/-- Why no step is enabled (R111, R119), for `step` to answer with where none is. -/
def stopReason (s : State) : Fault :=
  match s.phase with
  | .fetching => .exhausted
  | .halted => .halted
  | .executing => .midInstruction

/-- The opcode fetch of `Step()` (R113): `PHASE <- Executing`, `PC` one further, `REM` one down; the charge to `CYC` is
held back until the opcode is known to be recognised. -/
def fetchOpcode (s : State) : State := { s with phase := .executing, pc := s.pc + 1, rem := s.rem - 1 }

/-- `CYC <- CYC + 1` (R113): the opcode is recognised, its fetch is counted. -/
def countOpcode (s : State) : State := { s with cyc := s.cyc + 1 }

/-- How a recognised instruction starts (R113): the opcode fetch, counted. -/
def startInstr (s : State) : State := countOpcode (fetchOpcode s)

/-- The state after `FetchByte()` of an operand byte the instruction already holds. -/
def skipByte (s : State) : State := (fetchByte s).2

/-- The state after `FetchWord()` of an operand the instruction already holds. -/
def skipWord (s : State) : State := (fetchWord s).2

/-- How a recognised instruction ends (R113): `PHASE <- Fetching`. -/
def endInstr (s : State) : State := { s with phase := .fetching }

/-- A meaning's answer: the instruction completes (R187). -/
def complete (s : State) : Host.Outcome State Fault Refusal := .next (endInstr s)

/-- `raise UnknownOpcode` (R181), after the opcode fetch: `REM <- 0`, `PHASE <- Halted`; `CYC` and all else kept. There is
no vector, no handler and nothing is saved. -/
def raiseUnknownOpcode (s : State) : State := { s with rem := 0, phase := .halted }

/-- Taking the exception, whole, from the boundary before the opcode fetch (R113, R181). That `CYC` leaves the fetch out is
the spec's decision D6 (log 10). -/
def takeUnknownOpcode (s : State) : State := raiseUnknownOpcode (fetchOpcode s)

/-- The three bytes from `PC` up: as many as the longest instruction has (R70, R71). -/
def bytesAtPc (s : State) : List Byte := [s.mem.read s.pc, s.mem.read (s.pc + 1), s.mem.read (s.pc + 2)]

/-- The instruction at `PC`, or none where the opcode byte is unrecognised (R79, R112). It looks at three bytes and
charges nothing; what the engine fetches, one byte at a time, is charged by the instruction (log 5). -/
def fetchInstr (s : State) : Option Instr :=
  match decode (bytesAtPc s) with
  | .ok (i, _) => some i
  | .error _ => none

/-- What `Run(budget)` does before its first step (R110). -/
def beginRun (budget : Int) (s : State) : State :=
  { s with rem := budget, cyc := 0, phase := if s.phase = .halted then .fetching else s.phase }

/-- Write bytes at an address and the addresses after it, wrapping. -/
def pokeBytes : List Byte → Addr → State → State
  | [], _, s => s
  | b :: bs, addr, s => pokeBytes bs (addr + 1) { s with mem := s.mem.write addr b }

/-- A state in which the next step runs: itself where a step is enabled, else the start of a run with a budget of one
cycle, which executes exactly one instruction (R110, R192; log 4). -/
def readyToStep (s : State) : State :=
  if StepEnabled s then s else { beginRun 1 s with phase := .fetching }

end Sys2Proof.Machine
end

