-- ==== Sys2Proof/Machine/Operands.lean ====
section
/-! DEFINITION. The addressing-mode resolver and the arithmetic of CORE (spec/40_addressing.md). Each mode has one
definition for what it does once its operand bytes are fetched (`addr…`: the effective address and the state after), which
the meanings call with the operand of the instruction and `resolve`, the spec's `Resolve(mode)`, with the one it fetches. -/

namespace Sys2Proof.Machine

/-- `zext_16(zp8 +8 r)` (R91): wraps inside page zero. -/
def zpIndexed (zp8 r : Byte) : Addr := (zp8 + r).zeroExtend 16

/-- `base +16 zext_16(r)` (R92): wraps at the top of the address space. The index is unsigned by the spec's decision D9
(log 12). -/
def absIndexed (base : Addr) (r : Byte) : Addr := base + r.zeroExtend 16

/-- `PageCross(base, indexed)` (R93). -/
def pageCross (base indexed : Addr) : Bool := decide ((base ^^^ indexed) >>> 8 ≠ 0)

/-- The page-crossing cycle of the indexed absolute modes (R93, R99, R100). -/
def crossTick (base indexed : Addr) (s : State) : State := if pageCross base indexed then tick s else s

/-- Mode `ZP` (R95). -/
def addrZp (zp8 : Byte) (s : State) : Addr × State := (zp8.zeroExtend 16, s)

/-- Mode `ZPX` (R96): the add-cycle, then the 8-bit sum. -/
def addrZpX (zp8 : Byte) (s : State) : Addr × State := (zpIndexed zp8 s.x, tick s)

/-- Mode `ZPY` (R97). -/
def addrZpY (zp8 : Byte) (s : State) : Addr × State := (zpIndexed zp8 s.y, tick s)

/-- Mode `ABS` (R98). -/
def addrAbs (abs16 : Addr) (s : State) : Addr × State := (abs16, s)

/-- Mode `ABSX` (R99). -/
def addrAbsX (abs16 : Addr) (s : State) : Addr × State :=
  (absIndexed abs16 s.x, crossTick abs16 (absIndexed abs16 s.x) s)

/-- Mode `ABSY` (R100). -/
def addrAbsY (abs16 : Addr) (s : State) : Addr × State :=
  (absIndexed abs16 s.y, crossTick abs16 (absIndexed abs16 s.y) s)

/-- Mode `INDX` (R101): the add-cycle, then the pointer in page zero selected by `X`. -/
def addrIndX (zp8 : Byte) (s : State) : Addr × State := readWord (zpIndexed zp8 s.x) (tick s)

/-- Mode `INDY` (R102): as `INDX` with `Y`, pre-indexed; nothing is added to the pointer (90_conflicts.md C6). -/
def addrIndY (zp8 : Byte) (s : State) : Addr × State := readWord (zpIndexed zp8 s.y) (tick s)

/-- What `Resolve` returns (R90). -/
inductive Resolved where
  /-- a literal, in mode `IMM` -/
  | value (v : Byte)
  /-- an effective address, in every other mode -/
  | addr (ea : Addr)
  deriving DecidableEq, Repr

/-- An address and a state, as what `Resolve` returns. -/
def asAddr (p : Addr × State) : Option (Resolved × State) := some (.addr p.1, p.2)

/-- `Resolve(mode)` (R90, R94 to R102), after the opcode fetch: it fetches the operand bytes itself. `IMP` has no operand
and is not resolved. -/
def resolve (m : Mode) (s : State) : Option (Resolved × State) :=
  match m with
  | .imp => none
  | .imm => some (.value (fetchByte s).1, (fetchByte s).2)
  | .zp => asAddr (addrZp (fetchByte s).1 (fetchByte s).2)
  | .zpx => asAddr (addrZpX (fetchByte s).1 (fetchByte s).2)
  | .zpy => asAddr (addrZpY (fetchByte s).1 (fetchByte s).2)
  | .abs => asAddr (addrAbs (fetchWord s).1 (fetchWord s).2)
  | .absx => asAddr (addrAbsX (fetchWord s).1 (fetchWord s).2)
  | .absy => asAddr (addrAbsY (fetchWord s).1 (fetchWord s).2)
  | .indx => asAddr (addrIndX (fetchByte s).1 (fetchByte s).2)
  | .indy => asAddr (addrIndY (fetchByte s).1 (fetchByte s).2)

/-- The pointer the indirect modes follow: the address in the two bytes at `ptr` and after it (R46, R54). -/
def pointerAt (s : State) (ptr : Addr) : Addr := pair (s.mem.read (secondByteAddr ptr)) (s.mem.read ptr)

/-- The effective address an instruction's mode and operand give in a state (R91 to R102), without the charges; none for
the modes that have none. -/
def effectiveAddr (s : State) : Mode → Operand → Option Addr
  | .zp, .byte b => some (b.zeroExtend 16)
  | .zpx, .byte b => some (zpIndexed b s.x)
  | .zpy, .byte b => some (zpIndexed b s.y)
  | .abs, .word w => some w
  | .absx, .word w => some (absIndexed w s.x)
  | .absy, .word w => some (absIndexed w s.y)
  | .indx, .byte b => some (pointerAt s (zpIndexed b s.x))
  | .indy, .byte b => some (pointerAt s (zpIndexed b s.y))
  | _, _ => none

/-- One charged cycle (R49, R105): an opcode or operand fetch, a pointer or data read, a write, or an internal cycle. -/
inductive Access where
  | fetch (addr : Addr)
  | read (addr : Addr)
  | write (addr : Addr) (v : Byte)
  | internal
  deriving DecidableEq, Repr

/-- The cycles of an instruction between its opcode fetch and its data access, in the order of R105 (decision D10,
log 21): its operand fetches, internal cycles and pointer reads. -/
def resolveAccesses (s : State) : Mode → Operand → List Access
  | .imp, _ => [.internal]
  | .imm, _ | .zp, _ => [.fetch (s.pc + 1)]
  | .zpx, _ | .zpy, _ => [.fetch (s.pc + 1), .internal]
  | .abs, _ => [.fetch (s.pc + 1), .fetch (s.pc + 2)]
  | .absx, .word w =>
    [.fetch (s.pc + 1), .fetch (s.pc + 2)] ++ if pageCross w (absIndexed w s.x) then [.internal] else []
  | .absy, .word w =>
    [.fetch (s.pc + 1), .fetch (s.pc + 2)] ++ if pageCross w (absIndexed w s.y) then [.internal] else []
  | .indx, .byte b =>
    [.fetch (s.pc + 1), .internal, .read (zpIndexed b s.x), .read (secondByteAddr (zpIndexed b s.x))]
  | .indy, .byte b =>
    [.fetch (s.pc + 1), .internal, .read (zpIndexed b s.y), .read (secondByteAddr (zpIndexed b s.y))]
  | .absx, _ | .absy, _ | .indx, _ | .indy, _ => []

/-- The register an operation stores, for a store (R150). -/
def Operation.stored? : Operation → Option Reg
  | .sta => some .a
  | .stx => some .x
  | .sty => some .y
  | .lda | .ldx | .ldy | .tax | .tay | .txa | .tya => none

/-- The register an operation writes, for a load or a transfer (R130, R170). -/
def Operation.dest? : Operation → Option Reg
  | .lda | .txa | .tya => some .a
  | .ldx | .tax => some .x
  | .ldy | .tay => some .y
  | .sta | .stx | .sty => none

/-- The charged cycles of an instruction started at `s`, in order (R104, R105): the opcode fetch, what the mode makes, then
the data access, a write for a store and a read for a load. -/
def accesses (i : Instr) (s : State) : List Access :=
  .fetch s.pc :: resolveAccesses s i.form.mode i.form.operand ++
    match effectiveAddr s i.form.mode i.form.operand, Operation.stored? i.form.operation with
    | some ea, some r => [.write ea (getReg s r)]
    | some ea, none => [.read ea]
    | none, _ => []

end Sys2Proof.Machine
end

