-- ==== Sys2Proof/Machine/Load.lean ====
section
/-! DEFINITION. The load family (spec/42_load.md): the shared operation of R130 and one meaning per instruction, R131 to
R148. A meaning is the whole instruction, from the boundary before its opcode fetch to the boundary after it. -/

namespace Sys2Proof.Machine

/-- The end of every load (R130): `r <- val; SetZN(val)`. -/
def loadValue (r : Reg) (val : Byte) (s : State) : State := setZN val (setReg r val s)

/-- `Load(r, mode)` for a mode that gives an address (R130): one read, then the end of every load. -/
def loadFrom (r : Reg) (p : Addr × State) : State :=
  loadValue r (readByte p.1 p.2).1 (readByte p.1 p.2).2

/-- `LDA #imm8` (R131). -/
def execLdaImm (imm8 : Byte) (s : State) : Host.Outcome State Fault Refusal :=
  complete (loadValue .a imm8 (skipByte (startInstr s)))

/-- `LDA zp8` (R132). -/
def execLdaZp (zp8 : Byte) (s : State) : Host.Outcome State Fault Refusal :=
  complete (loadFrom .a (addrZp zp8 (skipByte (startInstr s))))

/-- `LDA zp8,X` (R133). -/
def execLdaZpX (zp8 : Byte) (s : State) : Host.Outcome State Fault Refusal :=
  complete (loadFrom .a (addrZpX zp8 (skipByte (startInstr s))))

/-- `LDA abs16` (R134). -/
def execLdaAbs (abs16 : Addr) (s : State) : Host.Outcome State Fault Refusal :=
  complete (loadFrom .a (addrAbs abs16 (skipWord (startInstr s))))

/-- `LDA abs16,X` (R135). -/
def execLdaAbsX (abs16 : Addr) (s : State) : Host.Outcome State Fault Refusal :=
  complete (loadFrom .a (addrAbsX abs16 (skipWord (startInstr s))))

/-- `LDA abs16,Y` (R136). -/
def execLdaAbsY (abs16 : Addr) (s : State) : Host.Outcome State Fault Refusal :=
  complete (loadFrom .a (addrAbsY abs16 (skipWord (startInstr s))))

/-- `LDA (zp8,X)` (R137). -/
def execLdaIndX (zp8 : Byte) (s : State) : Host.Outcome State Fault Refusal :=
  complete (loadFrom .a (addrIndX zp8 (skipByte (startInstr s))))

/-- `LDA (zp8),Y` (R138). -/
def execLdaIndY (zp8 : Byte) (s : State) : Host.Outcome State Fault Refusal :=
  complete (loadFrom .a (addrIndY zp8 (skipByte (startInstr s))))

/-- `LDX #imm8` (R139). -/
def execLdxImm (imm8 : Byte) (s : State) : Host.Outcome State Fault Refusal :=
  complete (loadValue .x imm8 (skipByte (startInstr s)))

/-- `LDX zp8` (R140). -/
def execLdxZp (zp8 : Byte) (s : State) : Host.Outcome State Fault Refusal :=
  complete (loadFrom .x (addrZp zp8 (skipByte (startInstr s))))

/-- `LDX zp8,Y` (R141). -/
def execLdxZpY (zp8 : Byte) (s : State) : Host.Outcome State Fault Refusal :=
  complete (loadFrom .x (addrZpY zp8 (skipByte (startInstr s))))

/-- `LDX abs16` (R142). -/
def execLdxAbs (abs16 : Addr) (s : State) : Host.Outcome State Fault Refusal :=
  complete (loadFrom .x (addrAbs abs16 (skipWord (startInstr s))))

/-- `LDX abs16,Y` (R143). -/
def execLdxAbsY (abs16 : Addr) (s : State) : Host.Outcome State Fault Refusal :=
  complete (loadFrom .x (addrAbsY abs16 (skipWord (startInstr s))))

/-- `LDY #imm8` (R144). -/
def execLdyImm (imm8 : Byte) (s : State) : Host.Outcome State Fault Refusal :=
  complete (loadValue .y imm8 (skipByte (startInstr s)))

/-- `LDY zp8` (R145). -/
def execLdyZp (zp8 : Byte) (s : State) : Host.Outcome State Fault Refusal :=
  complete (loadFrom .y (addrZp zp8 (skipByte (startInstr s))))

/-- `LDY zp8,X` (R146). -/
def execLdyZpX (zp8 : Byte) (s : State) : Host.Outcome State Fault Refusal :=
  complete (loadFrom .y (addrZpX zp8 (skipByte (startInstr s))))

/-- `LDY abs16` (R147). -/
def execLdyAbs (abs16 : Addr) (s : State) : Host.Outcome State Fault Refusal :=
  complete (loadFrom .y (addrAbs abs16 (skipWord (startInstr s))))

/-- `LDY abs16,X` (R148). -/
def execLdyAbsX (abs16 : Addr) (s : State) : Host.Outcome State Fault Refusal :=
  complete (loadFrom .y (addrAbsX abs16 (skipWord (startInstr s))))

end Sys2Proof.Machine
end

