-- ==== Sys2Proof/Machine/Store.lean ====
section
/-! DEFINITION. The store family (spec/43_store.md): the shared operation of R150 and one meaning per instruction, R151 to
R163. A meaning is the whole instruction, from the boundary before its opcode fetch to the boundary after it. -/

namespace Sys2Proof.Machine

/-- `Store(r, mode)` (R150): one write of the register at the effective address; no flag. -/
def storeTo (r : Reg) (p : Addr × State) : State := writeByte p.1 (getReg p.2 r) p.2

/-- `STA zp8` (R151). -/
def execStaZp (zp8 : Byte) (s : State) : Host.Outcome State Fault Refusal :=
  complete (storeTo .a (addrZp zp8 (skipByte (startInstr s))))

/-- `STA zp8,X` (R152). -/
def execStaZpX (zp8 : Byte) (s : State) : Host.Outcome State Fault Refusal :=
  complete (storeTo .a (addrZpX zp8 (skipByte (startInstr s))))

/-- `STA abs16` (R153). -/
def execStaAbs (abs16 : Addr) (s : State) : Host.Outcome State Fault Refusal :=
  complete (storeTo .a (addrAbs abs16 (skipWord (startInstr s))))

/-- `STA abs16,X` (R154). -/
def execStaAbsX (abs16 : Addr) (s : State) : Host.Outcome State Fault Refusal :=
  complete (storeTo .a (addrAbsX abs16 (skipWord (startInstr s))))

/-- `STA abs16,Y` (R155). -/
def execStaAbsY (abs16 : Addr) (s : State) : Host.Outcome State Fault Refusal :=
  complete (storeTo .a (addrAbsY abs16 (skipWord (startInstr s))))

/-- `STA (zp8,X)` (R156). -/
def execStaIndX (zp8 : Byte) (s : State) : Host.Outcome State Fault Refusal :=
  complete (storeTo .a (addrIndX zp8 (skipByte (startInstr s))))

/-- `STA (zp8),Y` (R157). -/
def execStaIndY (zp8 : Byte) (s : State) : Host.Outcome State Fault Refusal :=
  complete (storeTo .a (addrIndY zp8 (skipByte (startInstr s))))

/-- `STX zp8` (R158). -/
def execStxZp (zp8 : Byte) (s : State) : Host.Outcome State Fault Refusal :=
  complete (storeTo .x (addrZp zp8 (skipByte (startInstr s))))

/-- `STX zp8,Y` (R159). -/
def execStxZpY (zp8 : Byte) (s : State) : Host.Outcome State Fault Refusal :=
  complete (storeTo .x (addrZpY zp8 (skipByte (startInstr s))))

/-- `STX abs16` (R160). -/
def execStxAbs (abs16 : Addr) (s : State) : Host.Outcome State Fault Refusal :=
  complete (storeTo .x (addrAbs abs16 (skipWord (startInstr s))))

/-- `STY zp8` (R161). -/
def execStyZp (zp8 : Byte) (s : State) : Host.Outcome State Fault Refusal :=
  complete (storeTo .y (addrZp zp8 (skipByte (startInstr s))))

/-- `STY zp8,X` (R162). -/
def execStyZpX (zp8 : Byte) (s : State) : Host.Outcome State Fault Refusal :=
  complete (storeTo .y (addrZpX zp8 (skipByte (startInstr s))))

/-- `STY abs16` (R163). -/
def execStyAbs (abs16 : Addr) (s : State) : Host.Outcome State Fault Refusal :=
  complete (storeTo .y (addrAbs abs16 (skipWord (startInstr s))))

end Sys2Proof.Machine
end

