-- ==== Sys2Proof/Machine/Transfer.lean ====
section
/-! DEFINITION. The register-transfer family (spec/44_transfer.md): the shared operation of R170 and one meaning per
instruction, R171 to R174. A meaning is the whole instruction, from boundary to boundary. -/

namespace Sys2Proof.Machine

/-- `Transfer(d, s)` (R170): one internal cycle, the copy, `SetZN` of the new value of `d`. -/
def transfer (dst src : Reg) (s : State) : State :=
  setZN (getReg (tick s) src) (setReg dst (getReg (tick s) src) (tick s))

/-- `TAX` (R171). -/
def execTax (s : State) : Host.Outcome State Fault Refusal :=
  complete (transfer .x .a (startInstr s))

/-- `TAY` (R172). -/
def execTay (s : State) : Host.Outcome State Fault Refusal :=
  complete (transfer .y .a (startInstr s))

/-- `TXA` (R173). -/
def execTxa (s : State) : Host.Outcome State Fault Refusal :=
  complete (transfer .a .x (startInstr s))

/-- `TYA` (R174). -/
def execTya (s : State) : Host.Outcome State Fault Refusal :=
  complete (transfer .a .y (startInstr s))

end Sys2Proof.Machine
end

