-- ==== Sys2Proof/Machine/Dispatch.lean ====
section
/-! DEFINITION. `Execute` by instruction (spec/41_dispatch.md R114): one arm per constructor of `Instr`. -/

namespace Sys2Proof.Machine

/-- What an instruction does, whole: from the boundary before its opcode fetch to the boundary after it (R113, R114). It
does not test whether a step is enabled: `step` does (log 3). -/
def exec (i : Instr) (s : State) : Host.Outcome State Fault Refusal :=
  match i with
  | .ldaImm imm8 => Sys2Proof.Machine.execLdaImm imm8 s
  | .ldaZp zp8 => Sys2Proof.Machine.execLdaZp zp8 s
  | .ldaZpX zp8 => Sys2Proof.Machine.execLdaZpX zp8 s
  | .ldaAbs abs16 => Sys2Proof.Machine.execLdaAbs abs16 s
  | .ldaAbsX abs16 => Sys2Proof.Machine.execLdaAbsX abs16 s
  | .ldaAbsY abs16 => Sys2Proof.Machine.execLdaAbsY abs16 s
  | .ldaIndX zp8 => Sys2Proof.Machine.execLdaIndX zp8 s
  | .ldaIndY zp8 => Sys2Proof.Machine.execLdaIndY zp8 s
  | .ldxImm imm8 => Sys2Proof.Machine.execLdxImm imm8 s
  | .ldxZp zp8 => Sys2Proof.Machine.execLdxZp zp8 s
  | .ldxZpY zp8 => Sys2Proof.Machine.execLdxZpY zp8 s
  | .ldxAbs abs16 => Sys2Proof.Machine.execLdxAbs abs16 s
  | .ldxAbsY abs16 => Sys2Proof.Machine.execLdxAbsY abs16 s
  | .ldyImm imm8 => Sys2Proof.Machine.execLdyImm imm8 s
  | .ldyZp zp8 => Sys2Proof.Machine.execLdyZp zp8 s
  | .ldyZpX zp8 => Sys2Proof.Machine.execLdyZpX zp8 s
  | .ldyAbs abs16 => Sys2Proof.Machine.execLdyAbs abs16 s
  | .ldyAbsX abs16 => Sys2Proof.Machine.execLdyAbsX abs16 s
  | .staZp zp8 => Sys2Proof.Machine.execStaZp zp8 s
  | .staZpX zp8 => Sys2Proof.Machine.execStaZpX zp8 s
  | .staAbs abs16 => Sys2Proof.Machine.execStaAbs abs16 s
  | .staAbsX abs16 => Sys2Proof.Machine.execStaAbsX abs16 s
  | .staAbsY abs16 => Sys2Proof.Machine.execStaAbsY abs16 s
  | .staIndX zp8 => Sys2Proof.Machine.execStaIndX zp8 s
  | .staIndY zp8 => Sys2Proof.Machine.execStaIndY zp8 s
  | .stxZp zp8 => Sys2Proof.Machine.execStxZp zp8 s
  | .stxZpY zp8 => Sys2Proof.Machine.execStxZpY zp8 s
  | .stxAbs abs16 => Sys2Proof.Machine.execStxAbs abs16 s
  | .styZp zp8 => Sys2Proof.Machine.execStyZp zp8 s
  | .styZpX zp8 => Sys2Proof.Machine.execStyZpX zp8 s
  | .styAbs abs16 => Sys2Proof.Machine.execStyAbs abs16 s
  | .tax => Sys2Proof.Machine.execTax s
  | .tay => Sys2Proof.Machine.execTay s
  | .txa => Sys2Proof.Machine.execTxa s
  | .tya => Sys2Proof.Machine.execTya s

end Sys2Proof.Machine
end

