-- ==== Sys2Proof/Machine/Step.lean ====
section
/-! DEFINITION. One step of CORE (spec/41_dispatch.md R111, R113): the instruction at the program counter, or the halt on
an unrecognised opcode. Where no step is enabled it stops by name (log 2). -/

namespace Sys2Proof.Machine

/-- `Step()` (R113), where it is enabled (R111). -/
def step (s : State) : Host.Outcome State Fault Refusal :=
  if StepEnabled s then
    match fetchInstr s with
    | some i => exec i s
    | none => .next (takeUnknownOpcode s)
  else .fault (stopReason s)

/-- The state with an instruction's bytes at the program counter, ready to step: where no step is enabled a run with a
budget of one cycle is started, as the host would (log 4). -/
def State.withFetchWord (s : State) (nbits w : Nat) : State :=
  pokeBytes (tableBytes nbits w) s.pc (readyToStep s)

end Sys2Proof.Machine
end

