-- ==== Sys2Proof/Machine/Engine.lean ====
section
/-! DEFINITION. The dispatch engine in the shape of the spec's own pseudocode, for any `OPTABLE` (spec/30_encoding.md R77,
spec/41_dispatch.md R112 to R114): it fetches one byte at a time and switches on (operation, mode), so that one text covers
pairs the default table does not have. `step` is the machine; this is what a statement compares it with. -/

namespace Sys2Proof.Machine

/-- `Load(r, mode)` (R130). -/
def engineLoad (r : Reg) (m : Mode) (s : State) : Option State :=
  match resolve m s with
  | some (.value v, t) => some (loadValue r v t)
  | some (.addr ea, t) => some (loadFrom r (ea, t))
  | none => none

/-- `Store(r, mode)` (R150): never immediate. -/
def engineStore (r : Reg) (m : Mode) (s : State) : Option State :=
  match resolve m s with
  | some (.addr ea, t) => some (storeTo r (ea, t))
  | some (.value _, _) => none
  | none => none

/-- `Transfer(d, s)` (R170): implied only. -/
def engineTransfer (dst src : Reg) (m : Mode) (s : State) : Option State :=
  if m = .imp then some (transfer dst src s) else none

/-- `Execute(operation, mode)` (R114), after the opcode fetch; none for a pair that has no meaning. -/
def execute (o : Operation) (m : Mode) (s : State) : Option State :=
  match o with
  | .lda => engineLoad .a m s
  | .ldx => engineLoad .x m s
  | .ldy => engineLoad .y m s
  | .sta => engineStore .a m s
  | .stx => engineStore .x m s
  | .sty => engineStore .y m s
  | .tax => engineTransfer .x .a m s
  | .tay => engineTransfer .y .a m s
  | .txa => engineTransfer .a .x m s
  | .tya => engineTransfer .a .y m s

/-- `Step()` (R113) under an `OPTABLE`, where it is enabled; none where the table pairs an operation with a mode that has no
meaning, which a valid one does not (R75). -/
def engineStep (t : OpTable) (s : State) : Option State :=
  match t.lookup (s.mem.read s.pc) with
  | none => some (raiseUnknownOpcode (fetchOpcode s))
  | some (o, m) =>
    match execute o m (countOpcode (fetchOpcode s)) with
    | some u => some (endInstr u)
    | none => none

end Sys2Proof.Machine
end

