-- ==== Sys2Proof/Machine/Transactions.lean ====
section
/-! DEFINITION. The four host transactions, each atomic (spec/00_scope.md R8): a run to its end (spec/41_dispatch.md R110,
R116 to R121), reset, poke and snapshot (spec/70_reset_and_hazards.md R200 to R205), and a session of them that starts before
the first reset (R31). -/

namespace Sys2Proof.Machine

/-- The outcome of a run (R119). -/
inductive RunOutcome where
  /-- the budget ran out -/
  | exhausted
  /-- the engine fetched an unrecognised opcode -/
  | haltedUnknownOpcode
  deriving DecidableEq, Repr

/-- What `Run` returns: the cycles consumed and the outcome (R110, R119, R121). -/
structure RunReport where
  consumed : Int
  outcome : RunOutcome
  deriving DecidableEq, Repr

/-- `while StepEnabled() do Step()` (R110), for at most the given number of steps. -/
def runLoop : Nat → State → State
  | 0, s => s
  | n + 1, s =>
    if StepEnabled s then
      match step s with
      | .next t => runLoop n t
      | .fault _ => s
      | .refused _ => s
    else s

/-- The outcome of a run by the state it ended in (R119). -/
def runOutcome (s : State) : RunOutcome :=
  match s.phase with
  | .halted => .haltedUnknownOpcode
  | .fetching => .exhausted
  | .executing => .exhausted

/-- `Run(budget)` (R110). A step takes at least one cycle of the budget (at least two, or it halts: R120), so `budget`
steps are always enough. -/
def run (budget : Int) (s : State) : State × RunReport :=
  let t := runLoop budget.toNat (beginRun budget s)
  (t, ⟨t.cyc, runOutcome t⟩)

/-- `Reset(vector)` (R200, R201): whatever the state before. -/
def resetAt (vector : Addr) (_s : State) : State := State.resetTo vector

/-- `Poke(addr, v)` (R8): one cell, no cycle. -/
def poke (addr : Addr) (v : Byte) (s : State) : State := { s with mem := s.mem.write addr v }

/-- What `Snapshot()` shows (R8, R192): the registers, the packed status byte and the cells asked for. -/
structure Snapshot where
  pc : Addr
  sp : Byte
  a : Byte
  x : Byte
  y : Byte
  ps : Byte
  cells : List (Addr × Byte)
  deriving DecidableEq, Repr

/-- `Snapshot()` (R8). -/
def snapshot (cells : List Addr) (s : State) : Snapshot where
  pc := s.pc
  sp := s.sp
  a := s.a
  x := s.x
  y := s.y
  ps := s.ps
  cells := cells.map fun addr => (addr, s.mem.read addr)

/-- The transactions (R8). -/
inductive Transaction where
  | reset (vector : Addr)
  | poke (addr : Addr) (v : Byte)
  | run (budget : Int)
  | snapshot (cells : List Addr)
  deriving DecidableEq, Repr

/-- What a transaction returns (R8). -/
inductive Reply where
  | done
  | ran (report : RunReport)
  | shown (view : Snapshot)
  deriving DecidableEq, Repr

/-- A run is in progress (R8, R205): a step is enabled, or an instruction is in progress. Between runs neither holds
(R23, decision D16). -/
abbrev RunInProgress (s : State) : Prop := StepEnabled s ∨ s.phase = .executing

/-- The budget is one that counters of `Config.cycleWidth` bits can take (R27, decision D1): always so for integers, as now.
With a width `w` the spec refuses budgets above `2^(w-1) - 6`; that budgets below `-2^(w-1)`, which such a counter cannot
hold, are refused too is the model's own: DESIGN CHOICE, safe, log 25. -/
def budgetFits (budget : Int) : Bool :=
  match Config.cycleWidth with
  | none => true
  | some w => decide (-(2 ^ (w - 1) : Int) ≤ budget ∧ budget ≤ 2 ^ (w - 1) - 6)

/-- A transaction on a state that some reset has made. -/
def transactOn (tx : Transaction) (s : State) : Except Refusal (State × Reply) :=
  if RunInProgress s then .error .runInProgress
  else
    match tx with
    | .reset vector => .ok (resetAt vector s, .done)
    | .poke addr v => .ok (poke addr v s, .done)
    | .run budget =>
      if budgetFits budget then .ok ((run budget s).1, .ran (run budget s).2) else .error .budgetTooLarge
    | .snapshot cells => .ok (s, .shown (snapshot cells s))

/-- A transaction on a machine, `none` before its first reset, when no element of the state has a value and only `Reset` has
a move (R31, R202; log 18). -/
def transact (tx : Transaction) : Option State → Except Refusal (State × Reply)
  | some s => transactOn tx s
  | none =>
    match tx with
    | .reset vector => .ok (State.resetTo vector, .done)
    | .poke _ _ | .run _ | .snapshot _ => .error .beforeReset

/-- A sequence of transactions, with what each returns; it stops at the first refusal. -/
def session : List Transaction → Option State → Except Refusal (Option State × List Reply)
  | [], m => .ok (m, [])
  | tx :: rest, m =>
    match transact tx m with
    | .error r => .error r
    | .ok (s, reply) =>
      match session rest (some s) with
      | .error r => .error r
      | .ok (m', replies) => .ok (m', reply :: replies)

end Sys2Proof.Machine
end

