-- ==== Sys2Proof/Safety.lean ====
section
/-! DEFINITION. What is true of CORE between steps, and what the accounting of a run is: the terms in which claims about
all states are stated. -/

namespace Sys2Proof.Machine

/-- The six flags nothing computes are clear (spec/10_state.md R19). -/
abbrev UntouchedClear (f : Flags) : Prop :=
  f.c = false ∧ f.i = false ∧ f.d = false ∧ f.b = false ∧ f.u = false ∧ f.v = false

/-- What holds from a reset on, between steps and between runs: the memory is canonical; `PHASE` is not `Executing` (R23);
`SP` is 0xFF (R14); the untouched flags are clear (R19); `Z` and `N` are not both set (R20); a halted engine has no budget
left (R181); the consumed cycles are not negative (R25). -/
structure Inv (s : State) : Prop where
  mem_wf : s.mem.wf
  boundary : s.phase ≠ .executing
  sp_reset : s.sp = 0xFF
  untouched : UntouchedClear s.flags
  not_zero_and_negative : ¬ (s.flags.z = true ∧ s.flags.n = true)
  halted_spent : s.phase = .halted → s.rem = 0
  cyc_nonneg : 0 ≤ s.cyc

/-- The accounting of a run that was given a budget (R26, R119): at a boundary what is left and what is consumed make up the
budget, and at most five cycles are overspent; after a halt nothing is left and less than the budget is consumed. -/
structure Accounted (budget : Int) (s : State) : Prop where
  at_boundary : s.phase = .fetching → s.rem + s.cyc = budget ∧ -5 ≤ s.rem
  after_halt : s.phase = .halted → s.rem = 0 ∧ s.cyc < budget

/-- A state in which the engine can go on without stopping: a step is enabled (R111). CORE has no other condition:
every instruction completes from every state (R187). -/
abbrev CanStep (s : State) : Prop := StepEnabled s

end Sys2Proof.Machine
end

