-- ==== Sys2Proof/Certificates/Slice0/Obligations.lean ====
section
/-! DEFINITION. The statements for the provers, from the numbered rules of spec/. The words they are stated in come first:
each is written from the spec's text and not from the definition a meaning uses. -/

namespace Sys2Proof.Claims

open Sys2Proof Sys2Proof.Machine

/-- The flags after a value was produced (spec/10_state.md R20): Z says it is zero, N is its bit 7. -/
def flagsOf (v : Byte) (f : Flags) : Flags := { f with z := decide (v.toNat = 0), n := decide (128 ≤ v.toNat) }

/-- An instruction of `len` bytes and `cost` cycles has ended at the next boundary (R49, R113, R118). -/
def ended (len : Nat) (cost : Int) (s : State) : State :=
  { s with pc := s.pc + BitVec.ofNat 16 len, rem := s.rem - cost, cyc := s.cyc + cost, phase := .fetching }

/-- A value came into A (R130, R170). -/
def intoA (v : Byte) (s : State) : State := { s with a := v, flags := flagsOf v s.flags }

/-- A value came into X (R130, R170). -/
def intoX (v : Byte) (s : State) : State := { s with x := v, flags := flagsOf v s.flags }

/-- A value came into Y (R130, R170). -/
def intoY (v : Byte) (s : State) : State := { s with y := v, flags := flagsOf v s.flags }

/-- A value was written to one cell (R150). -/
def stored (ea : Addr) (v : Byte) (s : State) : State := { s with mem := s.mem.write ea v }

/-- The page-zero address `(zp8 + r) mod 256` (R91). -/
def zpSum (zp8 r : Byte) : Addr := BitVec.ofNat 16 ((zp8.toNat + r.toNat) % 256)

/-- The address `(base + r) mod 65536`, the index unsigned (R92; decision D9, log 12). -/
def absSum (base : Addr) (r : Byte) : Addr := BitVec.ofNat 16 (base.toNat + r.toNat)

/-- The cost of an indexed absolute instruction: one more when the high byte changes (R93, R104). -/
def absCost (base : Addr) (r : Byte) : Int :=
  if base.toNat / 256 = (absSum base r).toNat / 256 then 4 else 5

/-- The address held in the two bytes at `ptr` and at the next 16-bit address, low byte first (R46, R54; decisions D4 and D3,
log 8 and log 7). -/
def pointer (s : State) (ptr : Addr) : Addr :=
  BitVec.ofNat 16 ((s.mem.read (ptr + 1)).toNat * 256 + (s.mem.read ptr).toNat)

/-- The cost of an instruction by its mode, the column "total" of R104. -/
def tableCost (i : Instr) (s : State) : Int :=
  match i.form.mode, i.form.operand with
  | .imp, _ => 2
  | .imm, _ => 2
  | .zp, _ => 3
  | .zpx, _ => 4
  | .zpy, _ => 4
  | .abs, _ => 4
  | .absx, .word w => absCost w s.x
  | .absy, .word w => absCost w s.y
  | .absx, _ => 0
  | .absy, _ => 0
  | .indx, _ => 6
  | .indy, _ => 6

/-- The value a load brings in: the immediate, or the cell at the effective address (R130). -/
def loadedValue (i : Instr) (s : State) : Option Byte :=
  match i.form.mode, i.form.operand with
  | .imm, .byte v => some v
  | m, o => (effectiveAddr s m o).map s.mem.read

/-- The instruction is a load into the register (R130). -/
def LoadsInto (i : Instr) (r : Reg) : Prop :=
  (i.form.operation = .lda ∧ r = .a) ∨ (i.form.operation = .ldx ∧ r = .x) ∨ (i.form.operation = .ldy ∧ r = .y)

/-- The instruction is a store of the register (R150). -/
def StoresFrom (i : Instr) (r : Reg) : Prop :=
  (i.form.operation = .sta ∧ r = .a) ∨ (i.form.operation = .stx ∧ r = .x) ∨ (i.form.operation = .sty ∧ r = .y)

/-- The 35 opcode bytes of R78, in rising order (decision D2, log 6). -/
def opcodeBytes : List Byte :=
  [0x81, 0x84, 0x85, 0x86, 0x8A, 0x8C, 0x8D, 0x8E, 0x91, 0x94, 0x95, 0x96, 0x98, 0x99, 0x9D, 0xA0, 0xA1, 0xA2,
   0xA4, 0xA5, 0xA6, 0xA8, 0xA9, 0xAA, 0xAC, 0xAD, 0xAE, 0xB1, 0xB4, 0xB5, 0xB6, 0xB9, 0xBC, 0xBD, 0xBE]

/-- The write of an access, done on a memory. -/
def applyAccess (m : Memory) : Access → Memory
  | .write addr v => m.write addr v
  | .fetch _ => m
  | .read _ => m
  | .internal => m

/-- The address an access fetches from. -/
def fetchedAddr : Access → Option Addr
  | .fetch addr => some addr
  | .read _ => none
  | .write _ _ => none
  | .internal => none

/-- One of the cycles fetches or reads the cell. -/
def Looks (cycles : List Access) (addr : Addr) : Prop := Access.fetch addr ∈ cycles ∨ Access.read addr ∈ cycles

/-- A state a host can have brought the machine to: a sequence of accepted transactions from before the first reset. -/
def Reachable (s : State) : Prop := ∃ txs replies, session txs none = .ok (some s, replies)

end Sys2Proof.Claims

open Sys2Proof Sys2Proof.Machine Sys2Proof.Claims

/-! ### Encoding -/

/-- Decoding an encoded instruction gives it back, with whatever bytes follow left over (R70 to R74). The byte values are the
spec's decision D2 (log 6). -/
def Obligations.DecodingAnEncodedInstructionGivesItBack : Prop :=
  ∀ (i : Instr) (rest : List Byte), decode (encode i ++ rest) = .ok (i, rest)

/-- Bytes that decode are the encoding of what they decode to: one encoding per instruction (R70 to R75; D2, D19, log 6). -/
def Obligations.DecodedBytesAreTheEncodingOfTheInstruction : Prop :=
  ∀ (bytes : List Byte) (i : Instr) (rest : List Byte), decode bytes = .ok (i, rest) → bytes = encode i ++ rest

/-- A few instructions written out byte by byte from the examples of R131 to R174 decode to what they stand for (D2, log 6). -/
def Obligations.WordsWrittenOutFromTheSpecDecode : Prop :=
  decode [0xA9, 0x80] = .ok (.ldaImm 0x80, []) ∧
  decode [0xBD, 0x71, 0x74] = .ok (.ldaAbsX 0x7471, []) ∧
  decode [0xB1, 0x20] = .ok (.ldaIndY 0x20, []) ∧
  decode [0xB6, 0xF0] = .ok (.ldxZpY 0xF0, []) ∧
  decode [0xAC, 0x34, 0x12] = .ok (.ldyAbs 0x1234, []) ∧
  decode [0x9D, 0xFF, 0x70] = .ok (.staAbsX 0x70FF, []) ∧
  decode [0x96, 0x80] = .ok (.stxZpY 0x80, []) ∧
  decode [0x8C, 0x00, 0x40] = .ok (.styAbs 0x4000, []) ∧
  decode [0x8A] = .ok (.txa, [])

/-- The unrecognised opcodes are exactly the bytes outside the 35 of the default table, 0x02 among them (R79; D2, log 6). -/
def Obligations.UnrecognisedOpcodesAreExactlyTheOtherBytes : Prop :=
  (∀ (op : Byte) (rest : List Byte), decode (op :: rest) = .error (.unknownOpcode op) ↔ op ∉ opcodeBytes) ∧
  (0x02 : Byte) ∉ opcodeBytes

/-- The default table meets the constraints of R75, and under any table that does the engine, from every state, completes the
instruction of a recognised opcode at a cost of 2 to 6 cycles and halts on any other (R77, R104, R181). That the halt keeps CYC is
the spec's decision D6 (log 10), the default table D2 (log 6). -/
def Obligations.AnyValidTableRunsEveryOpcode : Prop :=
  opTable.Valid ∧ opTable.length = 35 ∧
  ∀ (t : OpTable), t.Valid → ∀ s : State, ∃ u, engineStep t s = some u ∧
    (t.lookup (s.mem.read s.pc) = none → u = { s with pc := s.pc + 1, rem := 0, phase := .halted }) ∧
    (t.lookup (s.mem.read s.pc) ≠ none →
      u.phase = .fetching ∧ s.rem - u.rem = u.cyc - s.cyc ∧ 2 ≤ u.cyc - s.cyc ∧ u.cyc - s.cyc ≤ 6)

/-! ### The step -/

/-- Where a step is enabled and the bytes at the program counter decode to an instruction, the step is `exec` of it, and the
step adds nothing around it. That `exec` holds the opcode fetch, the charges and the phase which R113 puts around `Execute`, and
that three bytes are looked at at once, is the model's own factoring (log 3, log 5). -/
def Obligations.StepRunsTheDecodedInstruction : Prop :=
  ∀ (s : State) (i : Instr) (rest : List Byte), StepEnabled s →
    decode [s.mem.read s.pc, s.mem.read (s.pc + 1), s.mem.read (s.pc + 2)] = .ok (i, rest) →
    step s = exec i s

/-- A step on a byte with no entry takes the one exception: PC one further, no budget left, Halted, all else kept, and the
byte is the one before PC (R79, R181, R182). That CYC is not counted up is the spec's decision D6 (log 10). -/
def Obligations.UnrecognisedOpcodeHaltsTheRun : Prop :=
  ∀ s : State, StepEnabled s → s.mem.read s.pc ∉ opcodeBytes →
    ∃ t, step s = .next t ∧ t = { s with pc := s.pc + 1, rem := 0, phase := .halted } ∧
      t.mem.read (t.pc - 1) = s.mem.read s.pc

/-- A step is enabled exactly in Fetching with budget left, whatever the rest of the state (R111). -/
def Obligations.StepAnswersExactlyWhereEnabled : Prop :=
  ∀ s : State, (∃ t, step s = .next t) ↔ s.phase = .fetching ∧ 0 < s.rem

/-- Where no step is enabled, the model stops by the name of the reason: the model's choice (log 2, log 16). -/
def Obligations.StepWithoutBudgetOrAfterHaltStopsByName : Prop :=
  ∀ s : State,
    (s.phase = .fetching → s.rem ≤ 0 → step s = .fault .exhausted) ∧
    (s.phase = .halted → step s = .fault .halted) ∧
    (s.phase = .executing → step s = .fault .midInstruction)

/-- Every instruction completes from every state, at an instruction boundary, and no step is ever refused (R187). -/
def Obligations.EveryInstructionCompletesFromEveryState : Prop :=
  (∀ (i : Instr) (s : State), ∃ t, exec i s = .next t ∧ t.phase = .fetching) ∧
  ∀ (s : State) (r : Refusal), step s ≠ .refused r

/-- The step is the engine of the spec's pseudocode, which fetches byte by byte and switches on (operation, mode), under the
default table (R112, R113, R114). -/
def Obligations.StepRefinesThePseudocodeEngine : Prop :=
  ∀ s : State, StepEnabled s → ∃ t, engineStep opTable s = some t ∧ step s = .next t

/-- What an instruction costs is the total of the table of R104, off the budget and onto the consumed cycles; it is 2 to 6
(R104, R211; the index of the crossing is unsigned by decision D9, log 12). -/
def Obligations.InstructionCostsAreThoseOfTheTable : Prop :=
  ∀ (i : Instr) (s t : State), exec i s = .next t →
    t.cyc = s.cyc + tableCost i s ∧ t.rem = s.rem - tableCost i s ∧ 2 ≤ tableCost i s ∧ tableCost i s ≤ 6

/-- The cost is the number of memory accesses and internal cycles, of which at most one is the data access (R49, R104, R105). The
order and the absence of an access in an internal cycle are decisions D10 and D8 (log 21, log 22). -/
def Obligations.CostIsTheNumberOfCycles : Prop :=
  ∀ (i : Instr) (s t : State), exec i s = .next t →
    t.cyc - s.cyc = ((accesses i s).length : Int) ∧ s.rem - t.rem = ((accesses i s).length : Int)

/-- The fetches among the cycles are those of the instruction's own bytes, ascending from PC, and memory after the instruction is
what the writes among them leave (R52, R60, R105). -/
def Obligations.CyclesFetchTheInstructionAndMakeItsWrites : Prop :=
  ∀ (i : Instr) (s t : State), exec i s = .next t →
    (accesses i s).filterMap fetchedAddr = (List.range (encode i).length).map (fun k => s.pc + BitVec.ofNat 16 k) ∧
    t.mem = (accesses i s).foldl applyAccess s.mem

/-- A step looks at no cell but those its cycles name: with any other memory that agrees on them it is the same instruction with
the same effect outside memory (R52, R56). -/
def Obligations.StepsLookOnlyAtTheCellsOfTheirCycles : Prop :=
  ∀ (s : State) (i : Instr) (rest : List Byte) (m : Memory) (t : State), StepEnabled s →
    decode [s.mem.read s.pc, s.mem.read (s.pc + 1), s.mem.read (s.pc + 2)] = .ok (i, rest) →
    (∀ addr, Looks (accesses i s) addr → m.read addr = s.mem.read addr) →
    step s = .next t →
    ∃ u, step { s with mem := m } = .next u ∧ u = { t with mem := u.mem } ∧
      ∀ addr v, Access.write addr v ∈ accesses i s → u.mem.read addr = v

/-- PC moves by the length of the instruction, by one on a halt; no host transaction but Reset writes it (R118). -/
def Obligations.ProgramCounterAdvancesByTheLength : Prop :=
  (∀ (i : Instr) (s t : State), exec i s = .next t → t.pc = s.pc + BitVec.ofNat 16 (encode i).length) ∧
  (∀ s t : State, step s = .next t → t.phase = .halted → t.pc = s.pc + 1) ∧
  (∀ (s : State) (budget : Int) (addr : Addr) (v : Byte),
    (beginRun budget s).pc = s.pc ∧ (poke addr v s).pc = s.pc) ∧
  ∀ (s : State) (vector : Addr), (resetAt vector s).pc = vector

/-- SP is 0xFF after reset; no step writes it, no step reads it, and no other host transaction writes it (R14). -/
def Obligations.StackPointerIsNeitherReadNorWritten : Prop :=
  (∀ vector, (State.resetTo vector).sp = 0xFF) ∧
  (∀ (s t : State) (p : Byte), step s = .next t →
    t.sp = s.sp ∧ step { s with sp := p } = .next { t with sp := p }) ∧
  ∀ (s : State) (budget : Int) (addr : Addr) (v : Byte),
    (beginRun budget s).sp = s.sp ∧ (poke addr v s).sp = s.sp

/-- Reset clears all flags; a step keeps C, I, D, B, U and V, and no step reads any flag: with other flags it does the same to
everything else; no other host transaction writes a flag (R19). -/
def Obligations.UntouchedFlagsKeepAndNoFlagIsRead : Prop :=
  (∀ vector, (State.resetTo vector).flags = ⟨false, false, false, false, false, false, false, false⟩) ∧
  (∀ (s t : State) (f : Flags), step s = .next t →
    (t.flags.c = s.flags.c ∧ t.flags.i = s.flags.i ∧ t.flags.d = s.flags.d ∧ t.flags.b = s.flags.b ∧
      t.flags.u = s.flags.u ∧ t.flags.v = s.flags.v) ∧
    ∃ u, step { s with flags := f } = .next u ∧ u = { t with flags := u.flags }) ∧
  ∀ (s : State) (budget : Int) (addr : Addr) (v : Byte),
    (beginRun budget s).flags = s.flags ∧ (poke addr v s).flags = s.flags

/-- The budget is no gate on an instruction once started: with any other budget it does the same and charges the same (R116). -/
def Obligations.BudgetDoesNotChangeWhatAnInstructionDoes : Prop :=
  ∀ (i : Instr) (s t : State) (k : Int), exec i s = .next t →
    exec i { s with rem := s.rem + k } = .next { t with rem := t.rem + k }

/-- The transitions of PHASE (R115): a step leaves Fetching, is Executing after its opcode fetch, and ends in Halted exactly when
the opcode has no entry and in Fetching otherwise; Run and Reset lead to Fetching, and Poke keeps it. That Run leaves Halted is the
spec's decision D7 (log 11). -/
def Obligations.PhaseMovesAsItsTransitionTableSays : Prop :=
  (∀ s t : State, step s = .next t →
    s.phase = .fetching ∧ (fetchOpcode s).phase = .executing ∧
    (opTable.lookup (s.mem.read s.pc) = none → t.phase = .halted) ∧
    (opTable.lookup (s.mem.read s.pc) ≠ none → t.phase = .fetching)) ∧
  (∀ (s : State) (budget : Int), s.phase = .halted ∨ s.phase = .fetching → (beginRun budget s).phase = .fetching) ∧
  (∀ (s : State) (addr : Addr) (v : Byte), (poke addr v s).phase = s.phase) ∧
  ∀ (s : State) (vector : Addr), (resetAt vector s).phase = .fetching

/-! ### What each instruction does -/

/-- LDA in its eight forms: the whole next state (R130 to R138). The pointer's two bytes rest on decisions D3 and D4 (log 7,
log 8), the unsigned index of the indexed absolute forms on D9 (log 12). -/
def Obligations.LdaLoadsTheAccumulator : Prop :=
  ∀ s : State,
    (∀ v, exec (.ldaImm v) s = .next (intoA v (ended 2 2 s))) ∧
    (∀ zp8, exec (.ldaZp zp8) s = .next (intoA (s.mem.read (zpSum zp8 0)) (ended 2 3 s))) ∧
    (∀ zp8, exec (.ldaZpX zp8) s = .next (intoA (s.mem.read (zpSum zp8 s.x)) (ended 2 4 s))) ∧
    (∀ w, exec (.ldaAbs w) s = .next (intoA (s.mem.read w) (ended 3 4 s))) ∧
    (∀ w, exec (.ldaAbsX w) s = .next (intoA (s.mem.read (absSum w s.x)) (ended 3 (absCost w s.x) s))) ∧
    (∀ w, exec (.ldaAbsY w) s = .next (intoA (s.mem.read (absSum w s.y)) (ended 3 (absCost w s.y) s))) ∧
    (∀ zp8, exec (.ldaIndX zp8) s = .next (intoA (s.mem.read (pointer s (zpSum zp8 s.x))) (ended 2 6 s))) ∧
    (∀ zp8, exec (.ldaIndY zp8) s = .next (intoA (s.mem.read (pointer s (zpSum zp8 s.y))) (ended 2 6 s)))

/-- LDX in its five forms: the whole next state (R130, R139 to R143; D9, log 12, for the indexed absolute form). -/
def Obligations.LdxLoadsX : Prop :=
  ∀ s : State,
    (∀ v, exec (.ldxImm v) s = .next (intoX v (ended 2 2 s))) ∧
    (∀ zp8, exec (.ldxZp zp8) s = .next (intoX (s.mem.read (zpSum zp8 0)) (ended 2 3 s))) ∧
    (∀ zp8, exec (.ldxZpY zp8) s = .next (intoX (s.mem.read (zpSum zp8 s.y)) (ended 2 4 s))) ∧
    (∀ w, exec (.ldxAbs w) s = .next (intoX (s.mem.read w) (ended 3 4 s))) ∧
    (∀ w, exec (.ldxAbsY w) s = .next (intoX (s.mem.read (absSum w s.y)) (ended 3 (absCost w s.y) s)))

/-- LDY in its five forms: the whole next state (R130, R144 to R148; D9, log 12, for the indexed absolute form). -/
def Obligations.LdyLoadsY : Prop :=
  ∀ s : State,
    (∀ v, exec (.ldyImm v) s = .next (intoY v (ended 2 2 s))) ∧
    (∀ zp8, exec (.ldyZp zp8) s = .next (intoY (s.mem.read (zpSum zp8 0)) (ended 2 3 s))) ∧
    (∀ zp8, exec (.ldyZpX zp8) s = .next (intoY (s.mem.read (zpSum zp8 s.x)) (ended 2 4 s))) ∧
    (∀ w, exec (.ldyAbs w) s = .next (intoY (s.mem.read w) (ended 3 4 s))) ∧
    (∀ w, exec (.ldyAbsX w) s = .next (intoY (s.mem.read (absSum w s.x)) (ended 3 (absCost w s.x) s)))

/-- STA in its seven forms: the whole next state, the pointer read before the write (R150 to R157; D3, D4, D9, log 7, log 8,
log 12). -/
def Obligations.StaStoresTheAccumulator : Prop :=
  ∀ s : State,
    (∀ zp8, exec (.staZp zp8) s = .next (stored (zpSum zp8 0) s.a (ended 2 3 s))) ∧
    (∀ zp8, exec (.staZpX zp8) s = .next (stored (zpSum zp8 s.x) s.a (ended 2 4 s))) ∧
    (∀ w, exec (.staAbs w) s = .next (stored w s.a (ended 3 4 s))) ∧
    (∀ w, exec (.staAbsX w) s = .next (stored (absSum w s.x) s.a (ended 3 (absCost w s.x) s))) ∧
    (∀ w, exec (.staAbsY w) s = .next (stored (absSum w s.y) s.a (ended 3 (absCost w s.y) s))) ∧
    (∀ zp8, exec (.staIndX zp8) s = .next (stored (pointer s (zpSum zp8 s.x)) s.a (ended 2 6 s))) ∧
    (∀ zp8, exec (.staIndY zp8) s = .next (stored (pointer s (zpSum zp8 s.y)) s.a (ended 2 6 s)))

/-- STX and STY in their three forms each: the whole next state (R150, R158 to R163). -/
def Obligations.StxAndStyStoreTheirRegister : Prop :=
  ∀ s : State,
    (∀ zp8, exec (.stxZp zp8) s = .next (stored (zpSum zp8 0) s.x (ended 2 3 s))) ∧
    (∀ zp8, exec (.stxZpY zp8) s = .next (stored (zpSum zp8 s.y) s.x (ended 2 4 s))) ∧
    (∀ w, exec (.stxAbs w) s = .next (stored w s.x (ended 3 4 s))) ∧
    (∀ zp8, exec (.styZp zp8) s = .next (stored (zpSum zp8 0) s.y (ended 2 3 s))) ∧
    (∀ zp8, exec (.styZpX zp8) s = .next (stored (zpSum zp8 s.x) s.y (ended 2 4 s))) ∧
    (∀ w, exec (.styAbs w) s = .next (stored w s.y (ended 3 4 s)))

/-- The four transfers: the whole next state, so that the source and everything else is kept; one byte long, one fetch and one
internal cycle (R170). -/
def Obligations.TransfersCopyAndSetFlags : Prop :=
  ∀ s : State,
    exec .tax s = .next (intoX s.a (ended 1 2 s)) ∧
    exec .tay s = .next (intoY s.a (ended 1 2 s)) ∧
    exec .txa s = .next (intoA s.x (ended 1 2 s)) ∧
    exec .tya s = .next (intoA s.y (ended 1 2 s)) ∧
    (∀ i : Instr, i.form.mode = .imp →
      (i = .tax ∨ i = .tay ∨ i = .txa ∨ i = .tya) ∧ (encode i).length = 1 ∧ accesses i s = [.fetch s.pc, .internal])

/-- Every load brings its value into its register and sets Z and N from it; the frame: the two other registers, SP, the six other
flags and every byte of memory are kept; PC, REM and CYC may change (R130). -/
def Obligations.LoadsWriteTheirRegisterAndZNOnly : Prop :=
  ∀ (i : Instr) (r : Reg) (s : State), LoadsInto i r →
    ∃ v t, loadedValue i s = some v ∧ exec i s = .next t ∧
      getReg t r = v ∧ t.flags = flagsOf v s.flags ∧ t.phase = .fetching ∧
      (∀ q, q ≠ r → getReg t q = getReg s q) ∧ t.sp = s.sp ∧ ∀ addr, t.mem.read addr = s.mem.read addr

/-- Every store writes its register to its effective address, computed in the state before it; the frame: A, X, Y, SP, all eight
flags and every other byte of memory are kept; PC, REM and CYC may change (R150). -/
def Obligations.StoresWriteOneCellOnly : Prop :=
  ∀ (i : Instr) (r : Reg) (s : State), StoresFrom i r →
    ∃ ea t, effectiveAddr s i.form.mode i.form.operand = some ea ∧ exec i s = .next t ∧
      t.mem.read ea = getReg s r ∧ (∀ addr, addr ≠ ea → t.mem.read addr = s.mem.read addr) ∧
      (∀ q, getReg t q = getReg s q) ∧ t.sp = s.sp ∧ t.flags = s.flags ∧ t.phase = .fetching

/-- `SetZN` (R20): what it writes, that it writes nothing else and charges nothing, and that every load and transfer invokes it
with the new value of the destination and no store does. -/
def Obligations.ZeroAndNegativeComeFromTheNewValue : Prop :=
  (∀ (v : Byte) (s : State), setZN v s = { s with flags := flagsOf v s.flags }) ∧
  ∀ (i : Instr) (s t : State), exec i s = .next t →
    match i.form.operation with
    | .lda | .txa | .tya => t.flags = flagsOf t.a s.flags
    | .ldx | .tax => t.flags = flagsOf t.x s.flags
    | .ldy | .tay => t.flags = flagsOf t.y s.flags
    | .sta | .stx | .sty => t.flags = s.flags

/-! ### The two views of the flags -/

/-- The packed byte and the single flags are two views of the same eight bits (R17, R18); the positions are decision D5 (log 9). -/
def Obligations.PackedByteAndSingleFlagsAreTwoViews : Prop :=
  (∀ f : Flags, Flags.unpack f.pack = f) ∧
  (∀ ps : Byte, (Flags.unpack ps).pack = ps) ∧
  (∀ (f : Flags) (name : FlagName), f.pack.getLsbD name.bit = f.get name) ∧
  ∀ (f : Flags) (name other : FlagName) (x : Bool),
    (f.set name x).get other = if other = name then x else f.get other

/-! ### The primitives -/

/-- The byte primitives: each makes one access, charges one cycle and changes nothing else (R50, R53, R55). -/
def Obligations.BytePrimitivesChargeOneCycle : Prop :=
  ∀ (s : State) (addr : Addr) (v : Byte),
    fetchByte s = (s.mem.read s.pc, { s with pc := s.pc + 1, rem := s.rem - 1, cyc := s.cyc + 1 }) ∧
    readByte addr s = (s.mem.read addr, { s with rem := s.rem - 1, cyc := s.cyc + 1 }) ∧
    (∃ m, writeByte addr v s = { s with mem := m, rem := s.rem - 1, cyc := s.cyc + 1 } ∧
      ∀ b, m.read b = if b = addr then v else s.mem.read b)

/-- The two-byte primitives: two bytes, low first, two cycles; the second byte is at the next 16-bit address, so that a fetch at
0xFFFF goes on at 0x0000 (R51) and a pointer at 0x00FF at 0x0100 (R54). The latter and the pointer's byte order are decisions
D3 and D4 (log 7, log 8). -/
def Obligations.WordPrimitivesTakeTheLowByteFirst : Prop :=
  ∀ (s : State) (addr : Addr),
    fetchWord s = (pointer s s.pc, { s with pc := s.pc + 2, rem := s.rem - 2, cyc := s.cyc + 2 }) ∧
    readWord addr s = (pointer s addr, { s with rem := s.rem - 2, cyc := s.cyc + 2 })

/-- A store to the address of the next opcode is seen by the very next fetch (R62): the byte at PC is the one stored, and the next
step acts on it. That 0xAA is TAX and 0x02 has no entry is the default table, decision D2 (log 6); that the halt keeps CYC is
decision D6 (log 10). -/
def Obligations.NextFetchSeesTheStoredByte : Prop :=
  ∀ (i : Instr) (r : Reg) (s t : State), StoresFrom i r → exec i s = .next t →
    effectiveAddr s i.form.mode i.form.operand = some t.pc →
    t.mem.read t.pc = getReg s r ∧
    (StepEnabled t → getReg s r = 0xAA → step t = exec .tax t) ∧
    (StepEnabled t → getReg s r = 0x02 → step t = .next { t with pc := t.pc + 1, rem := 0, phase := .halted })

/-- Two canonical memories with the same contents are the same data: the form of the model's memory (R28; log 17). -/
def Obligations.CanonicalMemoriesWithTheSameContentsAreEqual : Prop :=
  ∀ m m' : Memory, m.wf → m'.wf → (∀ addr, m.read addr = m'.read addr) → m = m'

/-! ### Addressing -/

/-- The zero-page sum is taken modulo 256, so it stays in page zero, and it goes to 0x0000 from base 0xFF and index 1 (R91). -/
def Obligations.ZeroPageIndexWrapsInPageZero : Prop :=
  (∀ zp8 r : Byte, (zpIndexed zp8 r).toNat = (zp8.toNat + r.toNat) % 256 ∧ (zpIndexed zp8 r).toNat < 256) ∧
  zpIndexed 0xFF 0x01 = 0x0000

/-- The absolute sum is taken modulo 65536 with an unsigned index (R92; decision D9, log 12). -/
def Obligations.AbsoluteIndexWrapsAtTheTop : Prop :=
  (∀ (base : Addr) (r : Byte), (absIndexed base r).toNat = (base.toNat + r.toNat) % 65536) ∧
  absIndexed 0xFFFF 0x02 = 0x0001

/-- The page-boundary detector (R93): it says whether the high bytes differ, which for an indexed sum is whether the low byte and the
index reach 256; never for index 0; the crossing costs exactly one cycle, in the indexed absolute modes. -/
def Obligations.PageCrossingIsAChangeOfTheHighByte : Prop :=
  (∀ base indexed : Addr, pageCross base indexed = true ↔ hi8 base ≠ hi8 indexed) ∧
  (∀ (base : Addr) (r : Byte), pageCross base (absIndexed base r) = true ↔ 256 ≤ (lo8 base).toNat + r.toNat) ∧
  (∀ base : Addr, pageCross base (absIndexed base 0) = false) ∧
  pageCross 0x7471 (absIndexed 0x7471 0x36) = false ∧ pageCross 0x70FF (absIndexed 0x70FF 0x02) = true ∧
  (∀ (base indexed : Addr) (s : State), crossTick base indexed s =
    if pageCross base indexed then { s with rem := s.rem - 1, cyc := s.cyc + 1 } else s)

/-- `Resolve` in the modes without an index and in the zero-page indexed ones: what it returns, fetches and charges, and what an
instruction of the mode costs (R94 to R98). -/
def Obligations.DirectAndZeroPageModesResolve : Prop :=
  (∀ s : State,
    resolve .imm s = some (.value (s.mem.read s.pc), { s with pc := s.pc + 1, rem := s.rem - 1, cyc := s.cyc + 1 }) ∧
    resolve .zp s = some (.addr (zpSum (s.mem.read s.pc) 0),
      { s with pc := s.pc + 1, rem := s.rem - 1, cyc := s.cyc + 1 }) ∧
    resolve .zpx s = some (.addr (zpSum (s.mem.read s.pc) s.x),
      { s with pc := s.pc + 1, rem := s.rem - 2, cyc := s.cyc + 2 }) ∧
    resolve .zpy s = some (.addr (zpSum (s.mem.read s.pc) s.y),
      { s with pc := s.pc + 1, rem := s.rem - 2, cyc := s.cyc + 2 }) ∧
    resolve .abs s = some (.addr (pointer s s.pc), { s with pc := s.pc + 2, rem := s.rem - 2, cyc := s.cyc + 2 })) ∧
  ∀ (i : Instr) (s t : State), exec i s = .next t →
    (i.form.mode = .imm → t.cyc = s.cyc + 2) ∧ (i.form.mode = .zp → t.cyc = s.cyc + 3) ∧
    (i.form.mode = .zpx → t.cyc = s.cyc + 4) ∧ (i.form.mode = .zpy → t.cyc = s.cyc + 4) ∧
    (i.form.mode = .abs → t.cyc = s.cyc + 4)

/-- `Resolve` in the indexed absolute and the indirect modes, and of the implied mode that it is not resolved (R90, R99 to R102;
decisions D3, D4 and D9, log 7, log 8, log 12). -/
def Obligations.IndexedAbsoluteAndIndirectModesResolve : Prop :=
  ∀ s : State,
    resolve .absx s = some (.addr (absSum (pointer s s.pc) s.x),
      { s with pc := s.pc + 2, rem := s.rem - (absCost (pointer s s.pc) s.x - 2),
               cyc := s.cyc + (absCost (pointer s s.pc) s.x - 2) }) ∧
    resolve .absy s = some (.addr (absSum (pointer s s.pc) s.y),
      { s with pc := s.pc + 2, rem := s.rem - (absCost (pointer s s.pc) s.y - 2),
               cyc := s.cyc + (absCost (pointer s s.pc) s.y - 2) }) ∧
    resolve .indx s = some (.addr (pointer s (zpSum (s.mem.read s.pc) s.x)),
      { s with pc := s.pc + 1, rem := s.rem - 4, cyc := s.cyc + 4 }) ∧
    resolve .indy s = some (.addr (pointer s (zpSum (s.mem.read s.pc) s.y)),
      { s with pc := s.pc + 1, rem := s.rem - 4, cyc := s.cyc + 4 }) ∧
    resolve .imp s = none

/-- `(zp8),Y` is `(zp8,X)` with Y in the place of X, for the load and for the store: pre-indexed, nothing added to the pointer
(R102, 90_conflicts.md C6). -/
def Obligations.IndirectYIsIndirectXKeyedByY : Prop :=
  ∀ (zp8 : Byte) (s t : State),
    (exec (.ldaIndY zp8) s = .next t → exec (.ldaIndX zp8) { s with x := s.y } = .next { t with x := s.y }) ∧
    (exec (.staIndY zp8) s = .next t → exec (.staIndX zp8) { s with x := s.y } = .next { t with x := s.y })

/-! ### Reset, runs and the host -/

/-- Reset from any prior state leaves the values of R200 and R30, every cell 0x00 among them. REM and CYC are 0 by the spec's
decision D12 (log 15). -/
def Obligations.ResetLeavesTheSameStateWhateverWasBefore : Prop :=
  ∀ (vector : Addr) (s : State),
    (resetAt vector s).pc = vector ∧ (resetAt vector s).sp = 0xFF ∧ (resetAt vector s).ps = 0x00 ∧
    (resetAt vector s).a = 0x00 ∧ (resetAt vector s).x = 0x00 ∧ (resetAt vector s).y = 0x00 ∧
    (∀ addr, (resetAt vector s).mem.read addr = 0x00) ∧ (resetAt vector s).phase = .fetching ∧
    (resetAt vector s).rem = 0 ∧ (resetAt vector s).cyc = 0

/-- The invariant holds after a reset at any vector, and at the model's reset state (log 1). The invariant's canonical form of the
memory is the model's choice (log 17). -/
def Obligations.ResetMeetsTheInvariant : Prop :=
  (∀ vector, Inv (State.resetTo vector)) ∧ Inv State.reset

/-- Every step keeps the invariant, from every state that meets it (R14, R19, R20, R23, R181). The invariant's canonical form of
the memory is the model's choice (log 17). -/
def Obligations.StepKeepsTheInvariant : Prop :=
  ∀ s t : State, Inv s → step s = .next t → Inv t

/-- Every host transaction keeps the invariant and leaves no run in progress (R8, R23, R205; decisions D11 and D16, log 14 and
log 16). The invariant's canonical form of the memory is the model's choice (log 17). -/
def Obligations.TransactionsKeepTheInvariant : Prop :=
  ∀ (tx : Transaction) (s t : State) (reply : Reply), Inv s → transactOn tx s = .ok (t, reply) →
    Inv t ∧ ¬ RunInProgress t

/-- Whatever the host does from before the first reset on, programs it pokes included, the machine is in a state that meets the
invariant, and its next transaction is accepted (R14, R19, R202, R205; decisions D1, D11, D13, D16, log 13, log 14, log 18, log 16).
The invariant's canonical form of the memory is the model's choice (log 17). -/
def Obligations.EveryReachableStateMeetsTheInvariant : Prop :=
  ∀ s : State, Reachable s → Inv s ∧ ∀ tx, ∃ t reply, transactOn tx s = .ok (t, reply)

/-- Every step keeps the accounting of its run (R26, R116, R119). -/
def Obligations.StepKeepsTheAccounting : Prop :=
  ∀ (budget : Int) (s t : State), Accounted budget s → step s = .next t → Accounted budget t

/-- A run ends: after it no step is enabled, for any budget and from any state (R116, R120). That a run may start in Halted is the
spec's decision D7 (log 11). -/
def Obligations.RunEndsWhereNoStepIsEnabled : Prop :=
  ∀ (budget : Int) (s : State), ¬ StepEnabled (run budget s).1

/-- What a run with a budget reports (R26, R119, R121): exhausted with at most five cycles overspent, or halted with nothing left
and less than the budget consumed. The count of a halted run is decision D6 (log 10), that a run may start in Halted D7 (log 11). -/
def Obligations.RunReportsWhatItConsumed : Prop :=
  ∀ (budget : Int) (s : State), 1 ≤ budget → s.phase ≠ .executing →
    (run budget s).2.consumed = (run budget s).1.cyc ∧
    (((run budget s).1.phase = .fetching ∧ (run budget s).2.outcome = .exhausted ∧
        (run budget s).2.consumed = budget - (run budget s).1.rem ∧
        -5 ≤ (run budget s).1.rem ∧ (run budget s).1.rem ≤ 0) ∨
     ((run budget s).1.phase = .halted ∧ (run budget s).2.outcome = .haltedUnknownOpcode ∧
        (run budget s).1.rem = 0 ∧ 0 ≤ (run budget s).2.consumed ∧ (run budget s).2.consumed < budget))

/-- A run with a budget of zero or less executes nothing, clears a halt and reports no cycle (R117; decision D17, log 11). -/
def Obligations.RunWithoutBudgetExecutesNothing : Prop :=
  ∀ (budget : Int) (s : State), budget ≤ 0 →
    run budget s = ({ s with rem := budget, cyc := 0, phase := if s.phase = .halted then .fetching else s.phase },
      ⟨0, .exhausted⟩)

/-- A run with a budget of one executes exactly one step, after a halt too, at the current PC (R110, R192; decision D7, log 11). -/
def Obligations.RunOfOneCycleExecutesOneStep : Prop :=
  ∀ s : State, s.phase ≠ .executing →
    ∃ t, step { s with rem := 1, cyc := 0, phase := .fetching } = .next t ∧ (run 1 s).1 = t ∧ ¬ StepEnabled t

/-- A run takes at most half its budget of steps, rounded up: each takes at least two cycles or halts (R120). -/
def Obligations.RunTakesAtMostHalfItsBudgetOfSteps : Prop :=
  ∀ (budget : Int) (s : State) (n : Nat), ((budget + 1) / 2).toNat ≤ n →
    runLoop n (beginRun budget s) = (run budget s).1

/-- With a budget of at most 2^31 - 6 neither counter leaves 32 signed bits at any point of the run (R27; decision D1, log 13; that a
run may start in Halted D7, log 11). -/
def Obligations.CountersFitThirtyTwoBits : Prop :=
  ∀ (budget : Int) (s : State) (n : Nat), 1 ≤ budget → budget ≤ 2 ^ 31 - 6 → s.phase ≠ .executing →
    -(2 ^ 31) ≤ (runLoop n (beginRun budget s)).rem ∧ (runLoop n (beginRun budget s)).rem < 2 ^ 31 ∧
    0 ≤ (runLoop n (beginRun budget s)).cyc ∧ (runLoop n (beginRun budget s)).cyc < 2 ^ 31

/-- A run with no program placed halts at once, at every vector (R204; that 0x00 has no entry is decision D2, log 6). -/
def Obligations.RunOfZeroedMemoryHaltsAtOnce : Prop :=
  ∀ (vector : Addr) (budget : Int), 1 ≤ budget →
    run budget (State.resetTo vector) =
      ({ State.resetTo vector with pc := vector + 1, phase := .halted }, ⟨0, .haltedUnknownOpcode⟩)

/-- A transaction has a move exactly when a reset has happened and no run is in progress; before the first reset Reset has its move
and no other transaction has one (R8, R31, R205; decisions D1, D11 and D13, log 13, log 14, log 18). -/
def Obligations.TransactionsMoveOnlyBetweenRuns : Prop :=
  (∀ (tx : Transaction) (s : State),
    (∃ t reply, transact tx (some s) = .ok (t, reply)) ↔
      ¬ ((s.phase = .fetching ∧ 0 < s.rem) ∨ s.phase = .executing)) ∧
  (∀ (tx : Transaction) (s : State), (s.phase = .fetching ∧ 0 < s.rem) ∨ s.phase = .executing →
    transact tx (some s) = .error .runInProgress) ∧
  (∀ vector : Addr, transact (.reset vector) none = .ok (State.resetTo vector, .done)) ∧
  ∀ tx : Transaction, (∀ vector, tx ≠ .reset vector) → transact tx none = .error .beforeReset

/-- Poke writes one cell and nothing else; Snapshot shows the registers, the packed byte and the cells asked for; and where no run
is in progress each of the four transactions answers exactly its operation and its output (R8; decisions D1, D11 and D14, log 13,
log 14). -/
def Obligations.PokeAndSnapshotDoWhatTheySay : Prop :=
  (∀ (addr : Addr) (v : Byte) (s : State), ∃ m, poke addr v s = { s with mem := m } ∧
    ∀ b, m.read b = if b = addr then v else s.mem.read b) ∧
  (∀ (cells : List Addr) (s : State),
    (snapshot cells s).pc = s.pc ∧ (snapshot cells s).sp = s.sp ∧ (snapshot cells s).a = s.a ∧
    (snapshot cells s).x = s.x ∧ (snapshot cells s).y = s.y ∧ Flags.unpack (snapshot cells s).ps = s.flags ∧
    ∀ addr ∈ cells, (addr, s.mem.read addr) ∈ (snapshot cells s).cells) ∧
  ∀ s : State, ¬ ((s.phase = .fetching ∧ 0 < s.rem) ∨ s.phase = .executing) →
    (∀ addr v, transactOn (.poke addr v) s = .ok (poke addr v s, .done)) ∧
    (∀ cells, transactOn (.snapshot cells) s = .ok (s, .shown (snapshot cells s))) ∧
    (∀ budget, transactOn (.run budget) s = .ok ((run budget s).1, .ran (run budget s).2)) ∧
    ∀ vector, transactOn (.reset vector) s = .ok (State.resetTo vector, .done)
end

