-- ==== Sys2Proof/Laws/Decode.lean ====
section
/-! SUPPORT. The byte halves of a 16-bit quantity, and what looking an opcode up and taking an operand can answer. -/

namespace Sys2Proof

/-- `{h, l} = h * 256 + l` (R9). -/
theorem toNat_pair (h l : Byte) : (pair h l).toNat = h.toNat * 256 + l.toNat := by
  unfold pair
  rw [BitVec.toNat_append, ← Nat.shiftLeft_add_eq_or_of_lt l.isLt, Nat.shiftLeft_eq]

theorem toNat_lo8 (w : Addr) : (lo8 w).toNat = w.toNat % 256 := by
  simp [lo8]

theorem toNat_hi8 (w : Addr) : (hi8 w).toNat = w.toNat / 256 := by
  have := w.isLt
  simp only [hi8, BitVec.extractLsb'_toNat, Nat.shiftRight_eq_div_pow]
  omega

@[simp] theorem pair_hi8_lo8 (w : Addr) : pair (hi8 w) (lo8 w) = w := by
  apply BitVec.eq_of_toNat_eq
  rw [toNat_pair, toNat_hi8, toNat_lo8]
  omega

@[simp] theorem lo8_pair (h l : Byte) : lo8 (pair h l) = l := by
  apply BitVec.eq_of_toNat_eq
  rw [toNat_lo8, toNat_pair]
  omega

@[simp] theorem hi8_pair (h l : Byte) : hi8 (pair h l) = h := by
  apply BitVec.eq_of_toNat_eq
  rw [toNat_hi8, toNat_pair]
  omega

/-- An entry that is found is in the table. -/
theorem OpTable.lookup_mem {t : OpTable} {op : Byte} {o : Operation} {m : Mode} (h : t.lookup op = some (o, m)) :
    (⟨op, o, m⟩ : OpRow) ∈ t := by
  induction t with
  | nil => cases h
  | cons r rest ih =>
    unfold OpTable.lookup at h
    split at h
    · next hr => subst hr; cases h; exact List.mem_cons_self
    · exact List.mem_cons_of_mem _ (ih h)

/-- An opcode byte is not found exactly when no entry has it. -/
theorem OpTable.lookup_none {t : OpTable} {op : Byte} : t.lookup op = none ↔ ∀ r ∈ t, r.opcode ≠ op := by
  induction t with
  | nil => simp [OpTable.lookup]
  | cons r rest ih =>
    unfold OpTable.lookup
    split
    · next hr => subst hr; simp
    · next hr => simp [ih, hr]

/-- What an instruction is and what it is decoded from agree. -/
@[simp] theorem Form.instr?_form (i : Instr) : i.form.instr? = some i := by cases i <;> rfl

/-- A form that is an instruction is that instruction's form. -/
theorem Form.form_of_instr? {f : Form} {i : Instr} (h : f.instr? = some i) : i.form = f := by
  obtain ⟨o, m, p⟩ := f
  cases o <;> cases m <;> cases p <;> first | cases h; done | (cases h; rfl)

end Sys2Proof
end

