-- ==== Sys2Proof/Laws/Memory.lean ====
section
/-! SUPPORT. The laws of the memory: a read after a write, for every list whether canonical or not; every write keeps the
canonical form; canonical memories with the same contents are the same data. -/

namespace Sys2Proof.Machine

theorem Memory.lookup_insert (m : Memory) (a b : Nat) (v : Byte) :
    Memory.lookup (Memory.insert m a v) b = if a = b then v else Memory.lookup m b := by
  induction m with
  | nil => rfl
  | cons c rest ih =>
    obtain ⟨k, w⟩ := c
    unfold Memory.insert
    split
    · rfl
    · split
      · next h => subst h; simp only [Memory.lookup]; split <;> rfl
      · simp only [Memory.lookup, ih]
        split
        · next h => subst h; split <;> simp_all
        · rfl

theorem Memory.lookup_filter (m : Memory) (a b : Nat) :
    Memory.lookup (m.filter fun c => c.1 ≠ a) b = if a = b then Memory.unlisted else Memory.lookup m b := by
  induction m with
  | nil => simp [Memory.lookup]
  | cons c rest ih =>
    obtain ⟨k, w⟩ := c
    by_cases hk : k = a
    · subst hk
      simp only [List.filter_cons, ne_eq, not_true_eq_false, decide_false, Bool.false_eq_true, if_false, ih,
        Memory.lookup]
      split <;> rfl
    · simp only [List.filter_cons, ne_eq, hk, not_false_eq_true, decide_true, if_true, Memory.lookup, ih]
      split
      · next h => subst h; simp [Ne.symm hk]
      · rfl

/-- Reading after writing: the value at the address written, what was there at every other (R42). -/
theorem Memory.read_write (m : Memory) (a b : Addr) (v : Byte) :
    (m.write a v).read b = if a = b then v else m.read b := by
  unfold Memory.write Memory.read
  by_cases hv : v = Memory.unlisted
  · rw [if_pos hv, Memory.lookup_filter]; simp only [hv, ← BitVec.toNat_inj]
  · rw [if_neg hv, Memory.lookup_insert]; simp only [← BitVec.toNat_inj]

@[simp] theorem Memory.read_write_same (m : Memory) (a : Addr) (v : Byte) : (m.write a v).read a = v := by
  rw [Memory.read_write, if_pos rfl]

theorem Memory.read_write_other (m : Memory) {a b : Addr} (v : Byte) (h : a ≠ b) :
    (m.write a v).read b = m.read b := by
  rw [Memory.read_write, if_neg h]

@[simp] theorem Memory.read_nil (a : Addr) : Memory.read [] a = 0x00 := rfl

theorem Memory.mem_insert {m : Memory} {a : Nat} {v : Byte} {c : Host.Cell} (h : c ∈ Memory.insert m a v) :
    c = (a, v) ∨ c ∈ m := by
  induction m with
  | nil => exact Or.inl (by simpa [Memory.insert] using h)
  | cons d rest ih =>
    obtain ⟨k, w⟩ := d
    unfold Memory.insert at h
    split at h
    · simpa using h
    · split at h
      · rcases List.mem_cons.1 h with h | h
        · exact Or.inl h
        · exact Or.inr (List.mem_cons_of_mem _ h)
      · rcases List.mem_cons.1 h with h | h
        · exact Or.inr (h ▸ List.mem_cons_self)
        · exact (ih h).imp_right (List.mem_cons_of_mem _)

theorem Memory.insert_pairwise {m : Memory} (a : Nat) (v : Byte) (h : m.Pairwise fun c d => c.1 < d.1) :
    (Memory.insert m a v).Pairwise fun c d => c.1 < d.1 := by
  induction m with
  | nil => simp [Memory.insert]
  | cons d rest ih =>
    obtain ⟨k, w⟩ := d
    have ⟨hk, hrest⟩ := List.pairwise_cons.1 h
    unfold Memory.insert
    split
    · next hak =>
      refine List.pairwise_cons.2 ⟨fun c hc => ?_, h⟩
      rcases List.mem_cons.1 hc with hc | hc
      · exact hc ▸ hak
      · exact Nat.lt_trans hak (hk c hc)
    · split
      · next hka => subst hka; exact List.pairwise_cons.2 ⟨hk, hrest⟩
      · next hak hka =>
        refine List.pairwise_cons.2 ⟨fun c hc => ?_, ih hrest⟩
        rcases Memory.mem_insert hc with hc | hc
        · subst hc; show k < a; omega
        · exact hk c hc

/-- Every write keeps the canonical form. -/
theorem Memory.write_wf {m : Memory} (a : Addr) (v : Byte) (h : m.wf) : (m.write a v).wf := by
  unfold Memory.write
  split
  · exact ⟨h.1.filter _, fun c hc => h.2 c (List.mem_filter.1 hc).1⟩
  · next hv =>
    refine ⟨Memory.insert_pairwise _ _ h.1, fun c hc => ?_⟩
    rcases Memory.mem_insert hc with hc | hc
    · subst hc; exact ⟨a.isLt, hv⟩
    · exact h.2 c hc

/-- The memory after reset is canonical. -/
theorem Memory.nil_wf : Memory.wf [] := by decide

theorem Memory.lookup_of_mem {m : Memory} (h : m.Pairwise fun c d => c.1 < d.1) {c : Host.Cell} (hc : c ∈ m) :
    Memory.lookup m c.1 = c.2 := by
  induction m with
  | nil => cases hc
  | cons d rest ih =>
    have ⟨hd, hrest⟩ := List.pairwise_cons.1 h
    rcases List.mem_cons.1 hc with hc | hc
    · subst hc; simp [Memory.lookup]
    · have := hd c hc
      simp only [Memory.lookup, if_neg (show ¬ d.1 = c.1 by omega)]
      exact ih hrest hc

theorem Memory.mem_of_lookup {m : Memory} {a : Nat} (h : Memory.lookup m a ≠ Memory.unlisted) :
    (a, Memory.lookup m a) ∈ m := by
  induction m with
  | nil => exact absurd rfl h
  | cons d rest ih =>
    simp only [Memory.lookup] at h ⊢
    split
    · next hk => subst hk; exact List.mem_cons_self
    · next hk => rw [if_neg hk] at h; exact List.mem_cons_of_mem _ (ih h)

theorem Memory.mem_iff {m : Memory} (h : m.wf) (a : Nat) (v : Byte) :
    (a, v) ∈ m ↔ Memory.lookup m a = v ∧ v ≠ Memory.unlisted := by
  constructor
  · intro hm; exact ⟨Memory.lookup_of_mem h.1 hm, (h.2 _ hm).2⟩
  · rintro ⟨rfl, hv⟩; exact Memory.mem_of_lookup hv

theorem Memory.lookup_out {m : Memory} (h : m.wf) {a : Nat} (ha : 65536 ≤ a) : Memory.lookup m a = Memory.unlisted := by
  by_contra hne
  have := (h.2 _ (Memory.mem_of_lookup hne)).1
  simp only at this
  omega

end Sys2Proof.Machine
end

