-- ==== Sys2Proof/Laws/State.lean ====
section
/-! SUPPORT. What each update of the state leaves in each field: one lemma per field per update, for the simplifier, so that
no later proof unfolds an update. -/

namespace Sys2Proof.Machine

/-- Two states with the same fields are the same. -/
theorem State.ext_fields {s t : State} (ha : s.a = t.a) (hx : s.x = t.x) (hy : s.y = t.y) (hsp : s.sp = t.sp)
    (hpc : s.pc = t.pc) (hflags : s.flags = t.flags) (hphase : s.phase = t.phase) (hrem : s.rem = t.rem)
    (hcyc : s.cyc = t.cyc) (hmem : s.mem = t.mem) : s = t := by
  cases s; cases t; simp_all

/-! ### setZN -/

@[simp] theorem setZN_a (v : Byte) (s : State) : (setZN v s).a = s.a := rfl
@[simp] theorem setZN_x (v : Byte) (s : State) : (setZN v s).x = s.x := rfl
@[simp] theorem setZN_y (v : Byte) (s : State) : (setZN v s).y = s.y := rfl
@[simp] theorem setZN_sp (v : Byte) (s : State) : (setZN v s).sp = s.sp := rfl
@[simp] theorem setZN_pc (v : Byte) (s : State) : (setZN v s).pc = s.pc := rfl
@[simp] theorem setZN_flags (v : Byte) (s : State) : (setZN v s).flags = s.flags.setZN v := rfl
@[simp] theorem setZN_phase (v : Byte) (s : State) : (setZN v s).phase = s.phase := rfl
@[simp] theorem setZN_rem (v : Byte) (s : State) : (setZN v s).rem = s.rem := rfl
@[simp] theorem setZN_cyc (v : Byte) (s : State) : (setZN v s).cyc = s.cyc := rfl
@[simp] theorem setZN_mem (v : Byte) (s : State) : (setZN v s).mem = s.mem := rfl

/-! ### setReg -/

@[simp] theorem setReg_sp (r : Reg) (v : Byte) (s : State) : (setReg r v s).sp = s.sp := by cases r <;> rfl
@[simp] theorem setReg_pc (r : Reg) (v : Byte) (s : State) : (setReg r v s).pc = s.pc := by cases r <;> rfl
@[simp] theorem setReg_flags (r : Reg) (v : Byte) (s : State) : (setReg r v s).flags = s.flags := by cases r <;> rfl
@[simp] theorem setReg_phase (r : Reg) (v : Byte) (s : State) : (setReg r v s).phase = s.phase := by cases r <;> rfl
@[simp] theorem setReg_rem (r : Reg) (v : Byte) (s : State) : (setReg r v s).rem = s.rem := by cases r <;> rfl
@[simp] theorem setReg_cyc (r : Reg) (v : Byte) (s : State) : (setReg r v s).cyc = s.cyc := by cases r <;> rfl
@[simp] theorem setReg_mem (r : Reg) (v : Byte) (s : State) : (setReg r v s).mem = s.mem := by cases r <;> rfl
@[simp] theorem setReg_a_a (v : Byte) (s : State) : (setReg .a v s).a = v := rfl
@[simp] theorem setReg_a_x (v : Byte) (s : State) : (setReg .a v s).x = s.x := rfl
@[simp] theorem setReg_a_y (v : Byte) (s : State) : (setReg .a v s).y = s.y := rfl
@[simp] theorem setReg_x_a (v : Byte) (s : State) : (setReg .x v s).a = s.a := rfl
@[simp] theorem setReg_x_x (v : Byte) (s : State) : (setReg .x v s).x = v := rfl
@[simp] theorem setReg_x_y (v : Byte) (s : State) : (setReg .x v s).y = s.y := rfl
@[simp] theorem setReg_y_a (v : Byte) (s : State) : (setReg .y v s).a = s.a := rfl
@[simp] theorem setReg_y_x (v : Byte) (s : State) : (setReg .y v s).x = s.x := rfl
@[simp] theorem setReg_y_y (v : Byte) (s : State) : (setReg .y v s).y = v := rfl

/-! ### getReg -/

@[simp] theorem getReg_a (s : State) : getReg s .a = s.a := rfl
@[simp] theorem getReg_x (s : State) : getReg s .x = s.x := rfl
@[simp] theorem getReg_y (s : State) : getReg s .y = s.y := rfl
@[simp] theorem getReg_setReg (r q : Reg) (v : Byte) (s : State) :
    getReg (setReg r v s) q = if r = q then v else getReg s q := by cases r <;> cases q <;> rfl
@[simp] theorem getReg_setZN (q : Reg) (v : Byte) (s : State) : getReg (setZN v s) q = getReg s q := by cases q <;> rfl
@[simp] theorem getReg_charge (q : Reg) (n : Int) (s : State) : getReg (charge n s) q = getReg s q := by cases q <;> rfl
@[simp] theorem getReg_tick (q : Reg) (s : State) : getReg (tick s) q = getReg s q := by cases q <;> rfl
@[simp] theorem getReg_endInstr (q : Reg) (s : State) : getReg (endInstr s) q = getReg s q := by cases q <;> rfl
@[simp] theorem getReg_startInstr (q : Reg) (s : State) : getReg (startInstr s) q = getReg s q := by cases q <;> rfl
@[simp] theorem getReg_skipByte (q : Reg) (s : State) : getReg (skipByte s) q = getReg s q := by cases q <;> rfl
@[simp] theorem getReg_skipWord (q : Reg) (s : State) : getReg (skipWord s) q = getReg s q := by cases q <;> rfl

/-! ### charge -/

@[simp] theorem charge_a (n : Int) (s : State) : (charge n s).a = s.a := rfl
@[simp] theorem charge_x (n : Int) (s : State) : (charge n s).x = s.x := rfl
@[simp] theorem charge_y (n : Int) (s : State) : (charge n s).y = s.y := rfl
@[simp] theorem charge_sp (n : Int) (s : State) : (charge n s).sp = s.sp := rfl
@[simp] theorem charge_pc (n : Int) (s : State) : (charge n s).pc = s.pc := rfl
@[simp] theorem charge_flags (n : Int) (s : State) : (charge n s).flags = s.flags := rfl
@[simp] theorem charge_phase (n : Int) (s : State) : (charge n s).phase = s.phase := rfl
@[simp] theorem charge_rem (n : Int) (s : State) : (charge n s).rem = s.rem - n := rfl
@[simp] theorem charge_cyc (n : Int) (s : State) : (charge n s).cyc = s.cyc + n := rfl
@[simp] theorem charge_mem (n : Int) (s : State) : (charge n s).mem = s.mem := rfl

/-! ### tick -/

@[simp] theorem tick_a (s : State) : (tick s).a = s.a := rfl
@[simp] theorem tick_x (s : State) : (tick s).x = s.x := rfl
@[simp] theorem tick_y (s : State) : (tick s).y = s.y := rfl
@[simp] theorem tick_sp (s : State) : (tick s).sp = s.sp := rfl
@[simp] theorem tick_pc (s : State) : (tick s).pc = s.pc := rfl
@[simp] theorem tick_flags (s : State) : (tick s).flags = s.flags := rfl
@[simp] theorem tick_phase (s : State) : (tick s).phase = s.phase := rfl
@[simp] theorem tick_rem (s : State) : (tick s).rem = s.rem - 1 := rfl
@[simp] theorem tick_cyc (s : State) : (tick s).cyc = s.cyc + 1 := rfl
@[simp] theorem tick_mem (s : State) : (tick s).mem = s.mem := rfl

@[simp] theorem fetchByte_value (s : State) : (fetchByte s).1 = s.mem.read s.pc := rfl

/-! ### fetchByte -/

@[simp] theorem fetchByte_a (s : State) : ((fetchByte s).2).a = s.a := rfl
@[simp] theorem fetchByte_x (s : State) : ((fetchByte s).2).x = s.x := rfl
@[simp] theorem fetchByte_y (s : State) : ((fetchByte s).2).y = s.y := rfl
@[simp] theorem fetchByte_sp (s : State) : ((fetchByte s).2).sp = s.sp := rfl
@[simp] theorem fetchByte_pc (s : State) : ((fetchByte s).2).pc = s.pc + 1 := rfl
@[simp] theorem fetchByte_flags (s : State) : ((fetchByte s).2).flags = s.flags := rfl
@[simp] theorem fetchByte_phase (s : State) : ((fetchByte s).2).phase = s.phase := rfl
@[simp] theorem fetchByte_rem (s : State) : ((fetchByte s).2).rem = s.rem - 1 := rfl
@[simp] theorem fetchByte_cyc (s : State) : ((fetchByte s).2).cyc = s.cyc + 1 := rfl
@[simp] theorem fetchByte_mem (s : State) : ((fetchByte s).2).mem = s.mem := rfl

@[simp] theorem fetchWord_value (s : State) :
    (fetchWord s).1 = pair (s.mem.read (s.pc + 1)) (s.mem.read s.pc) := rfl

/-! ### fetchWord -/

@[simp] theorem fetchWord_a (s : State) : ((fetchWord s).2).a = s.a := rfl
@[simp] theorem fetchWord_x (s : State) : ((fetchWord s).2).x = s.x := rfl
@[simp] theorem fetchWord_y (s : State) : ((fetchWord s).2).y = s.y := rfl
@[simp] theorem fetchWord_sp (s : State) : ((fetchWord s).2).sp = s.sp := rfl
@[simp] theorem fetchWord_pc (s : State) : ((fetchWord s).2).pc = s.pc + 2 := by simp [fetchWord, BitVec.add_assoc]
@[simp] theorem fetchWord_flags (s : State) : ((fetchWord s).2).flags = s.flags := rfl
@[simp] theorem fetchWord_phase (s : State) : ((fetchWord s).2).phase = s.phase := rfl
@[simp] theorem fetchWord_rem (s : State) : ((fetchWord s).2).rem = s.rem - 2 := by simp only [fetchWord, fetchByte_rem]; omega
@[simp] theorem fetchWord_cyc (s : State) : ((fetchWord s).2).cyc = s.cyc + 2 := by simp only [fetchWord, fetchByte_cyc]; omega
@[simp] theorem fetchWord_mem (s : State) : ((fetchWord s).2).mem = s.mem := rfl

/-! ### skipByte -/

@[simp] theorem skipByte_a (s : State) : (skipByte s).a = s.a := rfl
@[simp] theorem skipByte_x (s : State) : (skipByte s).x = s.x := rfl
@[simp] theorem skipByte_y (s : State) : (skipByte s).y = s.y := rfl
@[simp] theorem skipByte_sp (s : State) : (skipByte s).sp = s.sp := rfl
@[simp] theorem skipByte_pc (s : State) : (skipByte s).pc = s.pc + 1 := rfl
@[simp] theorem skipByte_flags (s : State) : (skipByte s).flags = s.flags := rfl
@[simp] theorem skipByte_phase (s : State) : (skipByte s).phase = s.phase := rfl
@[simp] theorem skipByte_rem (s : State) : (skipByte s).rem = s.rem - 1 := rfl
@[simp] theorem skipByte_cyc (s : State) : (skipByte s).cyc = s.cyc + 1 := rfl
@[simp] theorem skipByte_mem (s : State) : (skipByte s).mem = s.mem := rfl

/-! ### skipWord -/

@[simp] theorem skipWord_a (s : State) : (skipWord s).a = s.a := rfl
@[simp] theorem skipWord_x (s : State) : (skipWord s).x = s.x := rfl
@[simp] theorem skipWord_y (s : State) : (skipWord s).y = s.y := rfl
@[simp] theorem skipWord_sp (s : State) : (skipWord s).sp = s.sp := rfl
@[simp] theorem skipWord_pc (s : State) : (skipWord s).pc = s.pc + 2 := fetchWord_pc s
@[simp] theorem skipWord_flags (s : State) : (skipWord s).flags = s.flags := rfl
@[simp] theorem skipWord_phase (s : State) : (skipWord s).phase = s.phase := rfl
@[simp] theorem skipWord_rem (s : State) : (skipWord s).rem = s.rem - 2 := fetchWord_rem s
@[simp] theorem skipWord_cyc (s : State) : (skipWord s).cyc = s.cyc + 2 := fetchWord_cyc s
@[simp] theorem skipWord_mem (s : State) : (skipWord s).mem = s.mem := rfl

@[simp] theorem readByte_value (addr : Addr) (s : State) : (readByte addr s).1 = s.mem.read addr := rfl

/-! ### readByte -/

@[simp] theorem readByte_a (addr : Addr) (s : State) : ((readByte addr s).2).a = s.a := rfl
@[simp] theorem readByte_x (addr : Addr) (s : State) : ((readByte addr s).2).x = s.x := rfl
@[simp] theorem readByte_y (addr : Addr) (s : State) : ((readByte addr s).2).y = s.y := rfl
@[simp] theorem readByte_sp (addr : Addr) (s : State) : ((readByte addr s).2).sp = s.sp := rfl
@[simp] theorem readByte_pc (addr : Addr) (s : State) : ((readByte addr s).2).pc = s.pc := rfl
@[simp] theorem readByte_flags (addr : Addr) (s : State) : ((readByte addr s).2).flags = s.flags := rfl
@[simp] theorem readByte_phase (addr : Addr) (s : State) : ((readByte addr s).2).phase = s.phase := rfl
@[simp] theorem readByte_rem (addr : Addr) (s : State) : ((readByte addr s).2).rem = s.rem - 1 := rfl
@[simp] theorem readByte_cyc (addr : Addr) (s : State) : ((readByte addr s).2).cyc = s.cyc + 1 := rfl
@[simp] theorem readByte_mem (addr : Addr) (s : State) : ((readByte addr s).2).mem = s.mem := rfl

@[simp] theorem readWord_value (addr : Addr) (s : State) : (readWord addr s).1 = pair (s.mem.read (secondByteAddr addr)) (s.mem.read addr) := rfl

/-! ### readWord -/

@[simp] theorem readWord_a (addr : Addr) (s : State) : ((readWord addr s).2).a = s.a := rfl
@[simp] theorem readWord_x (addr : Addr) (s : State) : ((readWord addr s).2).x = s.x := rfl
@[simp] theorem readWord_y (addr : Addr) (s : State) : ((readWord addr s).2).y = s.y := rfl
@[simp] theorem readWord_sp (addr : Addr) (s : State) : ((readWord addr s).2).sp = s.sp := rfl
@[simp] theorem readWord_pc (addr : Addr) (s : State) : ((readWord addr s).2).pc = s.pc := rfl
@[simp] theorem readWord_flags (addr : Addr) (s : State) : ((readWord addr s).2).flags = s.flags := rfl
@[simp] theorem readWord_phase (addr : Addr) (s : State) : ((readWord addr s).2).phase = s.phase := rfl
@[simp] theorem readWord_rem (addr : Addr) (s : State) : ((readWord addr s).2).rem = s.rem - 2 := by simp only [readWord, readByte_rem]; omega
@[simp] theorem readWord_cyc (addr : Addr) (s : State) : ((readWord addr s).2).cyc = s.cyc + 2 := by simp only [readWord, readByte_cyc]; omega
@[simp] theorem readWord_mem (addr : Addr) (s : State) : ((readWord addr s).2).mem = s.mem := rfl

/-! ### writeByte -/

@[simp] theorem writeByte_a (addr : Addr) (v : Byte) (s : State) : (writeByte addr v s).a = s.a := rfl
@[simp] theorem writeByte_x (addr : Addr) (v : Byte) (s : State) : (writeByte addr v s).x = s.x := rfl
@[simp] theorem writeByte_y (addr : Addr) (v : Byte) (s : State) : (writeByte addr v s).y = s.y := rfl
@[simp] theorem writeByte_sp (addr : Addr) (v : Byte) (s : State) : (writeByte addr v s).sp = s.sp := rfl
@[simp] theorem writeByte_pc (addr : Addr) (v : Byte) (s : State) : (writeByte addr v s).pc = s.pc := rfl
@[simp] theorem writeByte_flags (addr : Addr) (v : Byte) (s : State) : (writeByte addr v s).flags = s.flags := rfl
@[simp] theorem writeByte_phase (addr : Addr) (v : Byte) (s : State) : (writeByte addr v s).phase = s.phase := rfl
@[simp] theorem writeByte_rem (addr : Addr) (v : Byte) (s : State) : (writeByte addr v s).rem = s.rem - 1 := rfl
@[simp] theorem writeByte_cyc (addr : Addr) (v : Byte) (s : State) : (writeByte addr v s).cyc = s.cyc + 1 := rfl
@[simp] theorem writeByte_mem (addr : Addr) (v : Byte) (s : State) : (writeByte addr v s).mem = s.mem.write addr v := rfl

/-! ### fetchOpcode -/

@[simp] theorem fetchOpcode_a (s : State) : (fetchOpcode s).a = s.a := rfl
@[simp] theorem fetchOpcode_x (s : State) : (fetchOpcode s).x = s.x := rfl
@[simp] theorem fetchOpcode_y (s : State) : (fetchOpcode s).y = s.y := rfl
@[simp] theorem fetchOpcode_sp (s : State) : (fetchOpcode s).sp = s.sp := rfl
@[simp] theorem fetchOpcode_pc (s : State) : (fetchOpcode s).pc = s.pc + 1 := rfl
@[simp] theorem fetchOpcode_flags (s : State) : (fetchOpcode s).flags = s.flags := rfl
@[simp] theorem fetchOpcode_phase (s : State) : (fetchOpcode s).phase = .executing := rfl
@[simp] theorem fetchOpcode_rem (s : State) : (fetchOpcode s).rem = s.rem - 1 := rfl
@[simp] theorem fetchOpcode_cyc (s : State) : (fetchOpcode s).cyc = s.cyc := rfl
@[simp] theorem fetchOpcode_mem (s : State) : (fetchOpcode s).mem = s.mem := rfl

/-! ### countOpcode -/

@[simp] theorem countOpcode_a (s : State) : (countOpcode s).a = s.a := rfl
@[simp] theorem countOpcode_x (s : State) : (countOpcode s).x = s.x := rfl
@[simp] theorem countOpcode_y (s : State) : (countOpcode s).y = s.y := rfl
@[simp] theorem countOpcode_sp (s : State) : (countOpcode s).sp = s.sp := rfl
@[simp] theorem countOpcode_pc (s : State) : (countOpcode s).pc = s.pc := rfl
@[simp] theorem countOpcode_flags (s : State) : (countOpcode s).flags = s.flags := rfl
@[simp] theorem countOpcode_phase (s : State) : (countOpcode s).phase = s.phase := rfl
@[simp] theorem countOpcode_rem (s : State) : (countOpcode s).rem = s.rem := rfl
@[simp] theorem countOpcode_cyc (s : State) : (countOpcode s).cyc = s.cyc + 1 := rfl
@[simp] theorem countOpcode_mem (s : State) : (countOpcode s).mem = s.mem := rfl

/-! ### startInstr -/

@[simp] theorem startInstr_a (s : State) : (startInstr s).a = s.a := rfl
@[simp] theorem startInstr_x (s : State) : (startInstr s).x = s.x := rfl
@[simp] theorem startInstr_y (s : State) : (startInstr s).y = s.y := rfl
@[simp] theorem startInstr_sp (s : State) : (startInstr s).sp = s.sp := rfl
@[simp] theorem startInstr_pc (s : State) : (startInstr s).pc = s.pc + 1 := rfl
@[simp] theorem startInstr_flags (s : State) : (startInstr s).flags = s.flags := rfl
@[simp] theorem startInstr_phase (s : State) : (startInstr s).phase = .executing := rfl
@[simp] theorem startInstr_rem (s : State) : (startInstr s).rem = s.rem - 1 := rfl
@[simp] theorem startInstr_cyc (s : State) : (startInstr s).cyc = s.cyc + 1 := rfl
@[simp] theorem startInstr_mem (s : State) : (startInstr s).mem = s.mem := rfl

/-! ### endInstr -/

@[simp] theorem endInstr_a (s : State) : (endInstr s).a = s.a := rfl
@[simp] theorem endInstr_x (s : State) : (endInstr s).x = s.x := rfl
@[simp] theorem endInstr_y (s : State) : (endInstr s).y = s.y := rfl
@[simp] theorem endInstr_sp (s : State) : (endInstr s).sp = s.sp := rfl
@[simp] theorem endInstr_pc (s : State) : (endInstr s).pc = s.pc := rfl
@[simp] theorem endInstr_flags (s : State) : (endInstr s).flags = s.flags := rfl
@[simp] theorem endInstr_phase (s : State) : (endInstr s).phase = .fetching := rfl
@[simp] theorem endInstr_rem (s : State) : (endInstr s).rem = s.rem := rfl
@[simp] theorem endInstr_cyc (s : State) : (endInstr s).cyc = s.cyc := rfl
@[simp] theorem endInstr_mem (s : State) : (endInstr s).mem = s.mem := rfl

/-! ### raiseUnknownOpcode -/

@[simp] theorem raiseUnknownOpcode_a (s : State) : (raiseUnknownOpcode s).a = s.a := rfl
@[simp] theorem raiseUnknownOpcode_x (s : State) : (raiseUnknownOpcode s).x = s.x := rfl
@[simp] theorem raiseUnknownOpcode_y (s : State) : (raiseUnknownOpcode s).y = s.y := rfl
@[simp] theorem raiseUnknownOpcode_sp (s : State) : (raiseUnknownOpcode s).sp = s.sp := rfl
@[simp] theorem raiseUnknownOpcode_pc (s : State) : (raiseUnknownOpcode s).pc = s.pc := rfl
@[simp] theorem raiseUnknownOpcode_flags (s : State) : (raiseUnknownOpcode s).flags = s.flags := rfl
@[simp] theorem raiseUnknownOpcode_phase (s : State) : (raiseUnknownOpcode s).phase = .halted := rfl
@[simp] theorem raiseUnknownOpcode_rem (s : State) : (raiseUnknownOpcode s).rem = 0 := rfl
@[simp] theorem raiseUnknownOpcode_cyc (s : State) : (raiseUnknownOpcode s).cyc = s.cyc := rfl
@[simp] theorem raiseUnknownOpcode_mem (s : State) : (raiseUnknownOpcode s).mem = s.mem := rfl

/-! ### takeUnknownOpcode -/

@[simp] theorem takeUnknownOpcode_a (s : State) : (takeUnknownOpcode s).a = s.a := rfl
@[simp] theorem takeUnknownOpcode_x (s : State) : (takeUnknownOpcode s).x = s.x := rfl
@[simp] theorem takeUnknownOpcode_y (s : State) : (takeUnknownOpcode s).y = s.y := rfl
@[simp] theorem takeUnknownOpcode_sp (s : State) : (takeUnknownOpcode s).sp = s.sp := rfl
@[simp] theorem takeUnknownOpcode_pc (s : State) : (takeUnknownOpcode s).pc = s.pc + 1 := rfl
@[simp] theorem takeUnknownOpcode_flags (s : State) : (takeUnknownOpcode s).flags = s.flags := rfl
@[simp] theorem takeUnknownOpcode_phase (s : State) : (takeUnknownOpcode s).phase = .halted := rfl
@[simp] theorem takeUnknownOpcode_rem (s : State) : (takeUnknownOpcode s).rem = 0 := rfl
@[simp] theorem takeUnknownOpcode_cyc (s : State) : (takeUnknownOpcode s).cyc = s.cyc := rfl
@[simp] theorem takeUnknownOpcode_mem (s : State) : (takeUnknownOpcode s).mem = s.mem := rfl

/-! ### beginRun -/

@[simp] theorem beginRun_a (budget : Int) (s : State) : (beginRun budget s).a = s.a := rfl
@[simp] theorem beginRun_x (budget : Int) (s : State) : (beginRun budget s).x = s.x := rfl
@[simp] theorem beginRun_y (budget : Int) (s : State) : (beginRun budget s).y = s.y := rfl
@[simp] theorem beginRun_sp (budget : Int) (s : State) : (beginRun budget s).sp = s.sp := rfl
@[simp] theorem beginRun_pc (budget : Int) (s : State) : (beginRun budget s).pc = s.pc := rfl
@[simp] theorem beginRun_flags (budget : Int) (s : State) : (beginRun budget s).flags = s.flags := rfl
@[simp] theorem beginRun_phase (budget : Int) (s : State) : (beginRun budget s).phase = if s.phase = .halted then .fetching else s.phase := rfl
@[simp] theorem beginRun_rem (budget : Int) (s : State) : (beginRun budget s).rem = budget := rfl
@[simp] theorem beginRun_cyc (budget : Int) (s : State) : (beginRun budget s).cyc = 0 := rfl
@[simp] theorem beginRun_mem (budget : Int) (s : State) : (beginRun budget s).mem = s.mem := rfl

/-! ### setPs -/

@[simp] theorem setPs_a (ps : Byte) (s : State) : (State.setPs ps s).a = s.a := rfl
@[simp] theorem setPs_x (ps : Byte) (s : State) : (State.setPs ps s).x = s.x := rfl
@[simp] theorem setPs_y (ps : Byte) (s : State) : (State.setPs ps s).y = s.y := rfl
@[simp] theorem setPs_sp (ps : Byte) (s : State) : (State.setPs ps s).sp = s.sp := rfl
@[simp] theorem setPs_pc (ps : Byte) (s : State) : (State.setPs ps s).pc = s.pc := rfl
@[simp] theorem setPs_flags (ps : Byte) (s : State) : (State.setPs ps s).flags = Flags.unpack ps := rfl
@[simp] theorem setPs_phase (ps : Byte) (s : State) : (State.setPs ps s).phase = s.phase := rfl
@[simp] theorem setPs_rem (ps : Byte) (s : State) : (State.setPs ps s).rem = s.rem := rfl
@[simp] theorem setPs_cyc (ps : Byte) (s : State) : (State.setPs ps s).cyc = s.cyc := rfl
@[simp] theorem setPs_mem (ps : Byte) (s : State) : (State.setPs ps s).mem = s.mem := rfl

/-! ### poke -/

@[simp] theorem poke_a (addr : Addr) (v : Byte) (s : State) : (poke addr v s).a = s.a := rfl
@[simp] theorem poke_x (addr : Addr) (v : Byte) (s : State) : (poke addr v s).x = s.x := rfl
@[simp] theorem poke_y (addr : Addr) (v : Byte) (s : State) : (poke addr v s).y = s.y := rfl
@[simp] theorem poke_sp (addr : Addr) (v : Byte) (s : State) : (poke addr v s).sp = s.sp := rfl
@[simp] theorem poke_pc (addr : Addr) (v : Byte) (s : State) : (poke addr v s).pc = s.pc := rfl
@[simp] theorem poke_flags (addr : Addr) (v : Byte) (s : State) : (poke addr v s).flags = s.flags := rfl
@[simp] theorem poke_phase (addr : Addr) (v : Byte) (s : State) : (poke addr v s).phase = s.phase := rfl
@[simp] theorem poke_rem (addr : Addr) (v : Byte) (s : State) : (poke addr v s).rem = s.rem := rfl
@[simp] theorem poke_cyc (addr : Addr) (v : Byte) (s : State) : (poke addr v s).cyc = s.cyc := rfl
@[simp] theorem poke_mem (addr : Addr) (v : Byte) (s : State) : (poke addr v s).mem = s.mem.write addr v := rfl

/-! ### reset -/

@[simp] theorem resetTo_a (vector : Addr) : (State.resetTo vector).a = 0x00 := rfl
@[simp] theorem resetTo_x (vector : Addr) : (State.resetTo vector).x = 0x00 := rfl
@[simp] theorem resetTo_y (vector : Addr) : (State.resetTo vector).y = 0x00 := rfl
@[simp] theorem resetTo_sp (vector : Addr) : (State.resetTo vector).sp = 0xFF := rfl
@[simp] theorem resetTo_pc (vector : Addr) : (State.resetTo vector).pc = vector := rfl
@[simp] theorem resetTo_flags (vector : Addr) : (State.resetTo vector).flags = ⟨false, false, false, false, false, false, false, false⟩ := rfl
@[simp] theorem resetTo_phase (vector : Addr) : (State.resetTo vector).phase = .fetching := rfl
@[simp] theorem resetTo_rem (vector : Addr) : (State.resetTo vector).rem = 0 := rfl
@[simp] theorem resetTo_cyc (vector : Addr) : (State.resetTo vector).cyc = 0 := rfl
@[simp] theorem resetTo_mem (vector : Addr) : (State.resetTo vector).mem = [] := rfl

/-! ### the flags -/

@[simp] theorem Flags.setZN_c (v : Byte) (f : Flags) : (f.setZN v).c = f.c := rfl
@[simp] theorem Flags.setZN_z (v : Byte) (f : Flags) : (f.setZN v).z = decide (v = 0x00) := rfl
@[simp] theorem Flags.setZN_i (v : Byte) (f : Flags) : (f.setZN v).i = f.i := rfl
@[simp] theorem Flags.setZN_d (v : Byte) (f : Flags) : (f.setZN v).d = f.d := rfl
@[simp] theorem Flags.setZN_b (v : Byte) (f : Flags) : (f.setZN v).b = f.b := rfl
@[simp] theorem Flags.setZN_u (v : Byte) (f : Flags) : (f.setZN v).u = f.u := rfl
@[simp] theorem Flags.setZN_v (v : Byte) (f : Flags) : (f.setZN v).v = f.v := rfl
@[simp] theorem Flags.setZN_n (v : Byte) (f : Flags) : (f.setZN v).n = v.getLsbD 7 := rfl

end Sys2Proof.Machine
end

