-- ==== Sys2Proof/Laws/Operations.lean ====
section
/-! SUPPORT. What each shared operation of the meanings can do: the mode operations of the resolver, the end of a load, a store
and a transfer. One lemma per field, for the simplifier. -/

namespace Sys2Proof.Machine

/-! ### crossTick -/

@[simp] theorem crossTick_a (base indexed : Addr) (s : State) : (crossTick base indexed s).a = s.a := by unfold crossTick; split <;> rfl
@[simp] theorem crossTick_x (base indexed : Addr) (s : State) : (crossTick base indexed s).x = s.x := by unfold crossTick; split <;> rfl
@[simp] theorem crossTick_y (base indexed : Addr) (s : State) : (crossTick base indexed s).y = s.y := by unfold crossTick; split <;> rfl
@[simp] theorem crossTick_sp (base indexed : Addr) (s : State) : (crossTick base indexed s).sp = s.sp := by unfold crossTick; split <;> rfl
@[simp] theorem crossTick_pc (base indexed : Addr) (s : State) : (crossTick base indexed s).pc = s.pc := by unfold crossTick; split <;> rfl
@[simp] theorem crossTick_flags (base indexed : Addr) (s : State) : (crossTick base indexed s).flags = s.flags := by unfold crossTick; split <;> rfl
@[simp] theorem crossTick_phase (base indexed : Addr) (s : State) : (crossTick base indexed s).phase = s.phase := by unfold crossTick; split <;> rfl
@[simp] theorem crossTick_rem (base indexed : Addr) (s : State) : (crossTick base indexed s).rem = if pageCross base indexed then s.rem - 1 else s.rem := by unfold crossTick; split <;> rfl
@[simp] theorem crossTick_cyc (base indexed : Addr) (s : State) : (crossTick base indexed s).cyc = if pageCross base indexed then s.cyc + 1 else s.cyc := by unfold crossTick; split <;> rfl
@[simp] theorem crossTick_mem (base indexed : Addr) (s : State) : (crossTick base indexed s).mem = s.mem := by unfold crossTick; split <;> rfl

/-! ### the effective address of each mode, in the state before the instruction's own charges -/

@[simp] theorem addrZp_ea (zp8 : Byte) (s : State) : (addrZp zp8 s).1 = zp8.zeroExtend 16 := rfl
@[simp] theorem addrZpX_ea (zp8 : Byte) (s : State) : (addrZpX zp8 s).1 = zpIndexed zp8 s.x := rfl
@[simp] theorem addrZpY_ea (zp8 : Byte) (s : State) : (addrZpY zp8 s).1 = zpIndexed zp8 s.y := rfl
@[simp] theorem addrAbs_ea (abs16 : Addr) (s : State) : (addrAbs abs16 s).1 = abs16 := rfl
@[simp] theorem addrAbsX_ea (abs16 : Addr) (s : State) : (addrAbsX abs16 s).1 = absIndexed abs16 s.x := rfl
@[simp] theorem addrAbsY_ea (abs16 : Addr) (s : State) : (addrAbsY abs16 s).1 = absIndexed abs16 s.y := rfl
@[simp] theorem addrIndX_ea (zp8 : Byte) (s : State) : (addrIndX zp8 s).1 = pointerAt s (zpIndexed zp8 s.x) := rfl
@[simp] theorem addrIndY_ea (zp8 : Byte) (s : State) : (addrIndY zp8 s).1 = pointerAt s (zpIndexed zp8 s.y) := rfl

@[simp] theorem pointerAt_skipByte (s : State) (ptr : Addr) : pointerAt (skipByte s) ptr = pointerAt s ptr := rfl
@[simp] theorem pointerAt_startInstr (s : State) (ptr : Addr) : pointerAt (startInstr s) ptr = pointerAt s ptr := rfl

/-! ### addrZp -/

@[simp] theorem addrZp_a (zp8 : Byte) (s : State) : ((addrZp zp8 s).2).a = s.a := rfl
@[simp] theorem addrZp_x (zp8 : Byte) (s : State) : ((addrZp zp8 s).2).x = s.x := rfl
@[simp] theorem addrZp_y (zp8 : Byte) (s : State) : ((addrZp zp8 s).2).y = s.y := rfl
@[simp] theorem addrZp_sp (zp8 : Byte) (s : State) : ((addrZp zp8 s).2).sp = s.sp := rfl
@[simp] theorem addrZp_pc (zp8 : Byte) (s : State) : ((addrZp zp8 s).2).pc = s.pc := rfl
@[simp] theorem addrZp_flags (zp8 : Byte) (s : State) : ((addrZp zp8 s).2).flags = s.flags := rfl
@[simp] theorem addrZp_phase (zp8 : Byte) (s : State) : ((addrZp zp8 s).2).phase = s.phase := rfl
@[simp] theorem addrZp_rem (zp8 : Byte) (s : State) : ((addrZp zp8 s).2).rem = s.rem := rfl
@[simp] theorem addrZp_cyc (zp8 : Byte) (s : State) : ((addrZp zp8 s).2).cyc = s.cyc := rfl
@[simp] theorem addrZp_mem (zp8 : Byte) (s : State) : ((addrZp zp8 s).2).mem = s.mem := rfl

/-! ### addrZpX -/

@[simp] theorem addrZpX_a (zp8 : Byte) (s : State) : ((addrZpX zp8 s).2).a = s.a := rfl
@[simp] theorem addrZpX_x (zp8 : Byte) (s : State) : ((addrZpX zp8 s).2).x = s.x := rfl
@[simp] theorem addrZpX_y (zp8 : Byte) (s : State) : ((addrZpX zp8 s).2).y = s.y := rfl
@[simp] theorem addrZpX_sp (zp8 : Byte) (s : State) : ((addrZpX zp8 s).2).sp = s.sp := rfl
@[simp] theorem addrZpX_pc (zp8 : Byte) (s : State) : ((addrZpX zp8 s).2).pc = s.pc := rfl
@[simp] theorem addrZpX_flags (zp8 : Byte) (s : State) : ((addrZpX zp8 s).2).flags = s.flags := rfl
@[simp] theorem addrZpX_phase (zp8 : Byte) (s : State) : ((addrZpX zp8 s).2).phase = s.phase := rfl
@[simp] theorem addrZpX_rem (zp8 : Byte) (s : State) : ((addrZpX zp8 s).2).rem = s.rem - 1 := rfl
@[simp] theorem addrZpX_cyc (zp8 : Byte) (s : State) : ((addrZpX zp8 s).2).cyc = s.cyc + 1 := rfl
@[simp] theorem addrZpX_mem (zp8 : Byte) (s : State) : ((addrZpX zp8 s).2).mem = s.mem := rfl

/-! ### addrZpY -/

@[simp] theorem addrZpY_a (zp8 : Byte) (s : State) : ((addrZpY zp8 s).2).a = s.a := rfl
@[simp] theorem addrZpY_x (zp8 : Byte) (s : State) : ((addrZpY zp8 s).2).x = s.x := rfl
@[simp] theorem addrZpY_y (zp8 : Byte) (s : State) : ((addrZpY zp8 s).2).y = s.y := rfl
@[simp] theorem addrZpY_sp (zp8 : Byte) (s : State) : ((addrZpY zp8 s).2).sp = s.sp := rfl
@[simp] theorem addrZpY_pc (zp8 : Byte) (s : State) : ((addrZpY zp8 s).2).pc = s.pc := rfl
@[simp] theorem addrZpY_flags (zp8 : Byte) (s : State) : ((addrZpY zp8 s).2).flags = s.flags := rfl
@[simp] theorem addrZpY_phase (zp8 : Byte) (s : State) : ((addrZpY zp8 s).2).phase = s.phase := rfl
@[simp] theorem addrZpY_rem (zp8 : Byte) (s : State) : ((addrZpY zp8 s).2).rem = s.rem - 1 := rfl
@[simp] theorem addrZpY_cyc (zp8 : Byte) (s : State) : ((addrZpY zp8 s).2).cyc = s.cyc + 1 := rfl
@[simp] theorem addrZpY_mem (zp8 : Byte) (s : State) : ((addrZpY zp8 s).2).mem = s.mem := rfl

/-! ### addrAbs -/

@[simp] theorem addrAbs_a (abs16 : Addr) (s : State) : ((addrAbs abs16 s).2).a = s.a := rfl
@[simp] theorem addrAbs_x (abs16 : Addr) (s : State) : ((addrAbs abs16 s).2).x = s.x := rfl
@[simp] theorem addrAbs_y (abs16 : Addr) (s : State) : ((addrAbs abs16 s).2).y = s.y := rfl
@[simp] theorem addrAbs_sp (abs16 : Addr) (s : State) : ((addrAbs abs16 s).2).sp = s.sp := rfl
@[simp] theorem addrAbs_pc (abs16 : Addr) (s : State) : ((addrAbs abs16 s).2).pc = s.pc := rfl
@[simp] theorem addrAbs_flags (abs16 : Addr) (s : State) : ((addrAbs abs16 s).2).flags = s.flags := rfl
@[simp] theorem addrAbs_phase (abs16 : Addr) (s : State) : ((addrAbs abs16 s).2).phase = s.phase := rfl
@[simp] theorem addrAbs_rem (abs16 : Addr) (s : State) : ((addrAbs abs16 s).2).rem = s.rem := rfl
@[simp] theorem addrAbs_cyc (abs16 : Addr) (s : State) : ((addrAbs abs16 s).2).cyc = s.cyc := rfl
@[simp] theorem addrAbs_mem (abs16 : Addr) (s : State) : ((addrAbs abs16 s).2).mem = s.mem := rfl

/-! ### addrIndX -/

@[simp] theorem addrIndX_a (zp8 : Byte) (s : State) : ((addrIndX zp8 s).2).a = s.a := rfl
@[simp] theorem addrIndX_x (zp8 : Byte) (s : State) : ((addrIndX zp8 s).2).x = s.x := rfl
@[simp] theorem addrIndX_y (zp8 : Byte) (s : State) : ((addrIndX zp8 s).2).y = s.y := rfl
@[simp] theorem addrIndX_sp (zp8 : Byte) (s : State) : ((addrIndX zp8 s).2).sp = s.sp := rfl
@[simp] theorem addrIndX_pc (zp8 : Byte) (s : State) : ((addrIndX zp8 s).2).pc = s.pc := rfl
@[simp] theorem addrIndX_flags (zp8 : Byte) (s : State) : ((addrIndX zp8 s).2).flags = s.flags := rfl
@[simp] theorem addrIndX_phase (zp8 : Byte) (s : State) : ((addrIndX zp8 s).2).phase = s.phase := rfl
@[simp] theorem addrIndX_rem (zp8 : Byte) (s : State) : ((addrIndX zp8 s).2).rem = s.rem - 3 := by simp only [addrIndX, readWord_rem, tick_rem]; omega
@[simp] theorem addrIndX_cyc (zp8 : Byte) (s : State) : ((addrIndX zp8 s).2).cyc = s.cyc + 3 := by simp only [addrIndX, readWord_cyc, tick_cyc]; omega
@[simp] theorem addrIndX_mem (zp8 : Byte) (s : State) : ((addrIndX zp8 s).2).mem = s.mem := rfl

/-! ### addrIndY -/

@[simp] theorem addrIndY_a (zp8 : Byte) (s : State) : ((addrIndY zp8 s).2).a = s.a := rfl
@[simp] theorem addrIndY_x (zp8 : Byte) (s : State) : ((addrIndY zp8 s).2).x = s.x := rfl
@[simp] theorem addrIndY_y (zp8 : Byte) (s : State) : ((addrIndY zp8 s).2).y = s.y := rfl
@[simp] theorem addrIndY_sp (zp8 : Byte) (s : State) : ((addrIndY zp8 s).2).sp = s.sp := rfl
@[simp] theorem addrIndY_pc (zp8 : Byte) (s : State) : ((addrIndY zp8 s).2).pc = s.pc := rfl
@[simp] theorem addrIndY_flags (zp8 : Byte) (s : State) : ((addrIndY zp8 s).2).flags = s.flags := rfl
@[simp] theorem addrIndY_phase (zp8 : Byte) (s : State) : ((addrIndY zp8 s).2).phase = s.phase := rfl
@[simp] theorem addrIndY_rem (zp8 : Byte) (s : State) : ((addrIndY zp8 s).2).rem = s.rem - 3 := by simp only [addrIndY, readWord_rem, tick_rem]; omega
@[simp] theorem addrIndY_cyc (zp8 : Byte) (s : State) : ((addrIndY zp8 s).2).cyc = s.cyc + 3 := by simp only [addrIndY, readWord_cyc, tick_cyc]; omega
@[simp] theorem addrIndY_mem (zp8 : Byte) (s : State) : ((addrIndY zp8 s).2).mem = s.mem := rfl

/-! ### addrAbsX -/

@[simp] theorem addrAbsX_a (abs16 : Addr) (s : State) : ((addrAbsX abs16 s).2).a = s.a := crossTick_a _ _ _
@[simp] theorem addrAbsX_x (abs16 : Addr) (s : State) : ((addrAbsX abs16 s).2).x = s.x := crossTick_x _ _ _
@[simp] theorem addrAbsX_y (abs16 : Addr) (s : State) : ((addrAbsX abs16 s).2).y = s.y := crossTick_y _ _ _
@[simp] theorem addrAbsX_sp (abs16 : Addr) (s : State) : ((addrAbsX abs16 s).2).sp = s.sp := crossTick_sp _ _ _
@[simp] theorem addrAbsX_pc (abs16 : Addr) (s : State) : ((addrAbsX abs16 s).2).pc = s.pc := crossTick_pc _ _ _
@[simp] theorem addrAbsX_flags (abs16 : Addr) (s : State) : ((addrAbsX abs16 s).2).flags = s.flags := crossTick_flags _ _ _
@[simp] theorem addrAbsX_phase (abs16 : Addr) (s : State) : ((addrAbsX abs16 s).2).phase = s.phase := crossTick_phase _ _ _
@[simp] theorem addrAbsX_rem (abs16 : Addr) (s : State) : ((addrAbsX abs16 s).2).rem = if pageCross abs16 (absIndexed abs16 s.x) then s.rem - 1 else s.rem := crossTick_rem _ _ _
@[simp] theorem addrAbsX_cyc (abs16 : Addr) (s : State) : ((addrAbsX abs16 s).2).cyc = if pageCross abs16 (absIndexed abs16 s.x) then s.cyc + 1 else s.cyc := crossTick_cyc _ _ _
@[simp] theorem addrAbsX_mem (abs16 : Addr) (s : State) : ((addrAbsX abs16 s).2).mem = s.mem := crossTick_mem _ _ _

/-! ### addrAbsY -/

@[simp] theorem addrAbsY_a (abs16 : Addr) (s : State) : ((addrAbsY abs16 s).2).a = s.a := crossTick_a _ _ _
@[simp] theorem addrAbsY_x (abs16 : Addr) (s : State) : ((addrAbsY abs16 s).2).x = s.x := crossTick_x _ _ _
@[simp] theorem addrAbsY_y (abs16 : Addr) (s : State) : ((addrAbsY abs16 s).2).y = s.y := crossTick_y _ _ _
@[simp] theorem addrAbsY_sp (abs16 : Addr) (s : State) : ((addrAbsY abs16 s).2).sp = s.sp := crossTick_sp _ _ _
@[simp] theorem addrAbsY_pc (abs16 : Addr) (s : State) : ((addrAbsY abs16 s).2).pc = s.pc := crossTick_pc _ _ _
@[simp] theorem addrAbsY_flags (abs16 : Addr) (s : State) : ((addrAbsY abs16 s).2).flags = s.flags := crossTick_flags _ _ _
@[simp] theorem addrAbsY_phase (abs16 : Addr) (s : State) : ((addrAbsY abs16 s).2).phase = s.phase := crossTick_phase _ _ _
@[simp] theorem addrAbsY_rem (abs16 : Addr) (s : State) : ((addrAbsY abs16 s).2).rem = if pageCross abs16 (absIndexed abs16 s.y) then s.rem - 1 else s.rem := crossTick_rem _ _ _
@[simp] theorem addrAbsY_cyc (abs16 : Addr) (s : State) : ((addrAbsY abs16 s).2).cyc = if pageCross abs16 (absIndexed abs16 s.y) then s.cyc + 1 else s.cyc := crossTick_cyc _ _ _
@[simp] theorem addrAbsY_mem (abs16 : Addr) (s : State) : ((addrAbsY abs16 s).2).mem = s.mem := crossTick_mem _ _ _

/-! ### loadValue -/

@[simp] theorem loadValue_sp (r : Reg) (v : Byte) (s : State) : (loadValue r v s).sp = s.sp := by cases r <;> rfl
@[simp] theorem loadValue_pc (r : Reg) (v : Byte) (s : State) : (loadValue r v s).pc = s.pc := by cases r <;> rfl
@[simp] theorem loadValue_flags (r : Reg) (v : Byte) (s : State) : (loadValue r v s).flags = s.flags.setZN v := by cases r <;> rfl
@[simp] theorem loadValue_phase (r : Reg) (v : Byte) (s : State) : (loadValue r v s).phase = s.phase := by cases r <;> rfl
@[simp] theorem loadValue_rem (r : Reg) (v : Byte) (s : State) : (loadValue r v s).rem = s.rem := by cases r <;> rfl
@[simp] theorem loadValue_cyc (r : Reg) (v : Byte) (s : State) : (loadValue r v s).cyc = s.cyc := by cases r <;> rfl
@[simp] theorem loadValue_mem (r : Reg) (v : Byte) (s : State) : (loadValue r v s).mem = s.mem := by cases r <;> rfl

/-! ### loadFrom -/

@[simp] theorem loadFrom_sp (r : Reg) (p : Addr × State) : (loadFrom r p).sp = p.2.sp := by cases r <;> rfl
@[simp] theorem loadFrom_pc (r : Reg) (p : Addr × State) : (loadFrom r p).pc = p.2.pc := by cases r <;> rfl
@[simp] theorem loadFrom_flags (r : Reg) (p : Addr × State) : (loadFrom r p).flags = p.2.flags.setZN (p.2.mem.read p.1) := by cases r <;> rfl
@[simp] theorem loadFrom_phase (r : Reg) (p : Addr × State) : (loadFrom r p).phase = p.2.phase := by cases r <;> rfl
@[simp] theorem loadFrom_rem (r : Reg) (p : Addr × State) : (loadFrom r p).rem = p.2.rem - 1 := by cases r <;> rfl
@[simp] theorem loadFrom_cyc (r : Reg) (p : Addr × State) : (loadFrom r p).cyc = p.2.cyc + 1 := by cases r <;> rfl
@[simp] theorem loadFrom_mem (r : Reg) (p : Addr × State) : (loadFrom r p).mem = p.2.mem := by cases r <;> rfl

/-! ### storeTo -/

@[simp] theorem storeTo_a (r : Reg) (p : Addr × State) : (storeTo r p).a = p.2.a := rfl
@[simp] theorem storeTo_x (r : Reg) (p : Addr × State) : (storeTo r p).x = p.2.x := rfl
@[simp] theorem storeTo_y (r : Reg) (p : Addr × State) : (storeTo r p).y = p.2.y := rfl
@[simp] theorem storeTo_sp (r : Reg) (p : Addr × State) : (storeTo r p).sp = p.2.sp := rfl
@[simp] theorem storeTo_pc (r : Reg) (p : Addr × State) : (storeTo r p).pc = p.2.pc := rfl
@[simp] theorem storeTo_flags (r : Reg) (p : Addr × State) : (storeTo r p).flags = p.2.flags := rfl
@[simp] theorem storeTo_phase (r : Reg) (p : Addr × State) : (storeTo r p).phase = p.2.phase := rfl
@[simp] theorem storeTo_rem (r : Reg) (p : Addr × State) : (storeTo r p).rem = p.2.rem - 1 := rfl
@[simp] theorem storeTo_cyc (r : Reg) (p : Addr × State) : (storeTo r p).cyc = p.2.cyc + 1 := rfl
@[simp] theorem storeTo_mem (r : Reg) (p : Addr × State) : (storeTo r p).mem = p.2.mem.write p.1 (getReg p.2 r) := rfl

/-! ### transfer -/

@[simp] theorem transfer_sp (dst src : Reg) (s : State) : (transfer dst src s).sp = s.sp := by cases dst <;> cases src <;> rfl
@[simp] theorem transfer_pc (dst src : Reg) (s : State) : (transfer dst src s).pc = s.pc := by cases dst <;> cases src <;> rfl
@[simp] theorem transfer_flags (dst src : Reg) (s : State) : (transfer dst src s).flags = s.flags.setZN (getReg s src) := by cases dst <;> cases src <;> rfl
@[simp] theorem transfer_phase (dst src : Reg) (s : State) : (transfer dst src s).phase = s.phase := by cases dst <;> cases src <;> rfl
@[simp] theorem transfer_rem (dst src : Reg) (s : State) : (transfer dst src s).rem = s.rem - 1 := by cases dst <;> cases src <;> rfl
@[simp] theorem transfer_cyc (dst src : Reg) (s : State) : (transfer dst src s).cyc = s.cyc + 1 := by cases dst <;> cases src <;> rfl
@[simp] theorem transfer_mem (dst src : Reg) (s : State) : (transfer dst src s).mem = s.mem := by cases dst <;> cases src <;> rfl

/-! ### the single registers after a load, a transfer, and the resolver -/

@[simp] theorem loadValue_a_a (v : Byte) (s : State) : (loadValue .a v s).a = v := rfl
@[simp] theorem loadFrom_a_a (p : Addr × State) : (loadFrom .a p).a = p.2.mem.read p.1 := rfl
@[simp] theorem transfer_a_a (src : Reg) (s : State) : (transfer .a src s).a = getReg s src := by cases src <;> rfl
@[simp] theorem loadValue_a_x (v : Byte) (s : State) : (loadValue .a v s).x = s.x := rfl
@[simp] theorem loadFrom_a_x (p : Addr × State) : (loadFrom .a p).x = p.2.x := rfl
@[simp] theorem transfer_a_x (src : Reg) (s : State) : (transfer .a src s).x = s.x := by cases src <;> rfl
@[simp] theorem loadValue_a_y (v : Byte) (s : State) : (loadValue .a v s).y = s.y := rfl
@[simp] theorem loadFrom_a_y (p : Addr × State) : (loadFrom .a p).y = p.2.y := rfl
@[simp] theorem transfer_a_y (src : Reg) (s : State) : (transfer .a src s).y = s.y := by cases src <;> rfl
@[simp] theorem loadValue_x_a (v : Byte) (s : State) : (loadValue .x v s).a = s.a := rfl
@[simp] theorem loadFrom_x_a (p : Addr × State) : (loadFrom .x p).a = p.2.a := rfl
@[simp] theorem transfer_x_a (src : Reg) (s : State) : (transfer .x src s).a = s.a := by cases src <;> rfl
@[simp] theorem loadValue_x_x (v : Byte) (s : State) : (loadValue .x v s).x = v := rfl
@[simp] theorem loadFrom_x_x (p : Addr × State) : (loadFrom .x p).x = p.2.mem.read p.1 := rfl
@[simp] theorem transfer_x_x (src : Reg) (s : State) : (transfer .x src s).x = getReg s src := by cases src <;> rfl
@[simp] theorem loadValue_x_y (v : Byte) (s : State) : (loadValue .x v s).y = s.y := rfl
@[simp] theorem loadFrom_x_y (p : Addr × State) : (loadFrom .x p).y = p.2.y := rfl
@[simp] theorem transfer_x_y (src : Reg) (s : State) : (transfer .x src s).y = s.y := by cases src <;> rfl
@[simp] theorem loadValue_y_a (v : Byte) (s : State) : (loadValue .y v s).a = s.a := rfl
@[simp] theorem loadFrom_y_a (p : Addr × State) : (loadFrom .y p).a = p.2.a := rfl
@[simp] theorem transfer_y_a (src : Reg) (s : State) : (transfer .y src s).a = s.a := by cases src <;> rfl
@[simp] theorem loadValue_y_x (v : Byte) (s : State) : (loadValue .y v s).x = s.x := rfl
@[simp] theorem loadFrom_y_x (p : Addr × State) : (loadFrom .y p).x = p.2.x := rfl
@[simp] theorem transfer_y_x (src : Reg) (s : State) : (transfer .y src s).x = s.x := by cases src <;> rfl
@[simp] theorem loadValue_y_y (v : Byte) (s : State) : (loadValue .y v s).y = v := rfl
@[simp] theorem loadFrom_y_y (p : Addr × State) : (loadFrom .y p).y = p.2.mem.read p.1 := rfl
@[simp] theorem transfer_y_y (src : Reg) (s : State) : (transfer .y src s).y = getReg s src := by cases src <;> rfl
@[simp] theorem getReg_addrZp (q : Reg) (zp8 : Byte) (s : State) : getReg (addrZp zp8 s).2 q = getReg s q := by cases q <;> simp [getReg]
@[simp] theorem getReg_addrZpX (q : Reg) (zp8 : Byte) (s : State) : getReg (addrZpX zp8 s).2 q = getReg s q := by cases q <;> simp [getReg]
@[simp] theorem getReg_addrZpY (q : Reg) (zp8 : Byte) (s : State) : getReg (addrZpY zp8 s).2 q = getReg s q := by cases q <;> simp [getReg]
@[simp] theorem getReg_addrAbs (q : Reg) (abs16 : Addr) (s : State) : getReg (addrAbs abs16 s).2 q = getReg s q := by cases q <;> simp [getReg]
@[simp] theorem getReg_addrAbsX (q : Reg) (abs16 : Addr) (s : State) : getReg (addrAbsX abs16 s).2 q = getReg s q := by cases q <;> simp [getReg]
@[simp] theorem getReg_addrAbsY (q : Reg) (abs16 : Addr) (s : State) : getReg (addrAbsY abs16 s).2 q = getReg s q := by cases q <;> simp [getReg]
@[simp] theorem getReg_addrIndX (q : Reg) (zp8 : Byte) (s : State) : getReg (addrIndX zp8 s).2 q = getReg s q := by cases q <;> simp [getReg]
@[simp] theorem getReg_addrIndY (q : Reg) (zp8 : Byte) (s : State) : getReg (addrIndY zp8 s).2 q = getReg s q := by cases q <;> simp [getReg]

/-! ### the registers after a load, a store and a transfer -/

@[simp] theorem getReg_loadValue (r q : Reg) (v : Byte) (s : State) :
    getReg (loadValue r v s) q = if r = q then v else getReg s q := by simp [loadValue]

@[simp] theorem getReg_loadFrom (r q : Reg) (p : Addr × State) :
    getReg (loadFrom r p) q = if r = q then p.2.mem.read p.1 else getReg p.2 q := by
  cases r <;> cases q <;> rfl

@[simp] theorem getReg_storeTo (r q : Reg) (p : Addr × State) : getReg (storeTo r p) q = getReg p.2 q := by
  cases q <;> rfl

@[simp] theorem getReg_transfer (dst src q : Reg) (s : State) :
    getReg (transfer dst src s) q = if dst = q then getReg s src else getReg s q := by simp [transfer]

end Sys2Proof.Machine
end

