-- ==== Sys2Proof/Laws/PerInstr.lean ====
section
/-! SUPPORT. The per-instruction family Shape: an instruction is well-formed as a form, is the instruction of its form, and
its encoding has the length of its mode (spec/30_encoding.md R72, R76). -/

namespace Sys2Proof.Laws.Shape

/-- What the family says of an instruction. -/
def Statement (i : Instr) : Prop :=
  i.wellFormed = true ∧ i.form.instr? = some i ∧ (encode i).length = i.length

theorem ldaImm (imm8 : Byte) : Statement (.ldaImm imm8) := ⟨rfl, rfl, rfl⟩
theorem ldaZp (zp8 : Byte) : Statement (.ldaZp zp8) := ⟨rfl, rfl, rfl⟩
theorem ldaZpX (zp8 : Byte) : Statement (.ldaZpX zp8) := ⟨rfl, rfl, rfl⟩
theorem ldaAbs (abs16 : Addr) : Statement (.ldaAbs abs16) := ⟨rfl, rfl, rfl⟩
theorem ldaAbsX (abs16 : Addr) : Statement (.ldaAbsX abs16) := ⟨rfl, rfl, rfl⟩
theorem ldaAbsY (abs16 : Addr) : Statement (.ldaAbsY abs16) := ⟨rfl, rfl, rfl⟩
theorem ldaIndX (zp8 : Byte) : Statement (.ldaIndX zp8) := ⟨rfl, rfl, rfl⟩
theorem ldaIndY (zp8 : Byte) : Statement (.ldaIndY zp8) := ⟨rfl, rfl, rfl⟩
theorem ldxImm (imm8 : Byte) : Statement (.ldxImm imm8) := ⟨rfl, rfl, rfl⟩
theorem ldxZp (zp8 : Byte) : Statement (.ldxZp zp8) := ⟨rfl, rfl, rfl⟩
theorem ldxZpY (zp8 : Byte) : Statement (.ldxZpY zp8) := ⟨rfl, rfl, rfl⟩
theorem ldxAbs (abs16 : Addr) : Statement (.ldxAbs abs16) := ⟨rfl, rfl, rfl⟩
theorem ldxAbsY (abs16 : Addr) : Statement (.ldxAbsY abs16) := ⟨rfl, rfl, rfl⟩
theorem ldyImm (imm8 : Byte) : Statement (.ldyImm imm8) := ⟨rfl, rfl, rfl⟩
theorem ldyZp (zp8 : Byte) : Statement (.ldyZp zp8) := ⟨rfl, rfl, rfl⟩
theorem ldyZpX (zp8 : Byte) : Statement (.ldyZpX zp8) := ⟨rfl, rfl, rfl⟩
theorem ldyAbs (abs16 : Addr) : Statement (.ldyAbs abs16) := ⟨rfl, rfl, rfl⟩
theorem ldyAbsX (abs16 : Addr) : Statement (.ldyAbsX abs16) := ⟨rfl, rfl, rfl⟩
theorem staZp (zp8 : Byte) : Statement (.staZp zp8) := ⟨rfl, rfl, rfl⟩
theorem staZpX (zp8 : Byte) : Statement (.staZpX zp8) := ⟨rfl, rfl, rfl⟩
theorem staAbs (abs16 : Addr) : Statement (.staAbs abs16) := ⟨rfl, rfl, rfl⟩
theorem staAbsX (abs16 : Addr) : Statement (.staAbsX abs16) := ⟨rfl, rfl, rfl⟩
theorem staAbsY (abs16 : Addr) : Statement (.staAbsY abs16) := ⟨rfl, rfl, rfl⟩
theorem staIndX (zp8 : Byte) : Statement (.staIndX zp8) := ⟨rfl, rfl, rfl⟩
theorem staIndY (zp8 : Byte) : Statement (.staIndY zp8) := ⟨rfl, rfl, rfl⟩
theorem stxZp (zp8 : Byte) : Statement (.stxZp zp8) := ⟨rfl, rfl, rfl⟩
theorem stxZpY (zp8 : Byte) : Statement (.stxZpY zp8) := ⟨rfl, rfl, rfl⟩
theorem stxAbs (abs16 : Addr) : Statement (.stxAbs abs16) := ⟨rfl, rfl, rfl⟩
theorem styZp (zp8 : Byte) : Statement (.styZp zp8) := ⟨rfl, rfl, rfl⟩
theorem styZpX (zp8 : Byte) : Statement (.styZpX zp8) := ⟨rfl, rfl, rfl⟩
theorem styAbs (abs16 : Addr) : Statement (.styAbs abs16) := ⟨rfl, rfl, rfl⟩
theorem tax : Statement .tax := ⟨rfl, rfl, rfl⟩
theorem tay : Statement .tay := ⟨rfl, rfl, rfl⟩
theorem txa : Statement .txa := ⟨rfl, rfl, rfl⟩
theorem tya : Statement .tya := ⟨rfl, rfl, rfl⟩

end Sys2Proof.Laws.Shape
end

