-- ==== Sys2Proof/Laws/Step.lean ====
section
/-! SUPPORT. What a step can do, said once: which of its three ways it takes, and what every instruction keeps. -/

namespace Sys2Proof.Machine

/-- Where no step is enabled, `step` stops with the reason. -/
theorem step_disabled {s : State} (h : ¬ StepEnabled s) : step s = .fault (stopReason s) := if_neg h

/-- Where a step is enabled and an instruction is at `PC`, `step` is that instruction. -/
theorem step_instr {s : State} {i : Instr} (h : StepEnabled s) (hi : fetchInstr s = some i) : step s = exec i s := by
  unfold step; rw [if_pos h, hi]

/-- Where a step is enabled and no instruction is at `PC`, `step` takes the exception. -/
theorem step_unknown {s : State} (h : StepEnabled s) (hi : fetchInstr s = none) :
    step s = .next (takeUnknownOpcode s) := by
  unfold step; rw [if_pos h, hi]

/-- Everything a step that answers a next state can have done. -/
theorem step_cases {s t : State} (h : step s = .next t) :
    StepEnabled s ∧ ((∃ i, fetchInstr s = some i ∧ exec i s = .next t) ∨
      (fetchInstr s = none ∧ t = takeUnknownOpcode s)) := by
  by_cases he : StepEnabled s
  · refine ⟨he, ?_⟩
    cases hi : fetchInstr s with
    | some i => exact .inl ⟨i, rfl, step_instr he hi ▸ h⟩
    | none =>
      rw [step_unknown he hi] at h
      cases h
      exact .inr ⟨rfl, rfl⟩
  · rw [step_disabled he] at h; cases h

/-- The instruction at `PC` is what its bytes decode to. -/
theorem fetchInstr_eq_some {s : State} {i : Instr} :
    fetchInstr s = some i ↔ ∃ rest, decode (bytesAtPc s) = .ok (i, rest) := by
  unfold fetchInstr
  split
  · next j rest hd => simp [hd]
  · next e hd => simp [hd]

/-- Three bytes whose first is in the default table decode. -/
theorem decode_three {op b c : Byte} (h : opTable.lookup op ≠ none) : ∃ p, decode [op, b, c] = .ok p := by
  obtain ⟨⟨o, m⟩, hl⟩ := Option.ne_none_iff_exists'.1 h
  have hm := OpTable.lookup_mem hl
  simp only [opTable, List.mem_cons, OpRow.mk.injEq, List.not_mem_nil, or_false] at hm
  simp only [decode, hl]
  rcases hm with h | h | h | h | h | h | h | h | h | h | h | h | h | h | h | h | h | h | h | h | h | h | h | h | h |
    h | h | h | h | h | h | h | h | h | h <;> obtain ⟨-, rfl, rfl⟩ := h <;> exact ⟨_, rfl⟩

/-- No instruction is at `PC` exactly when the byte there has no entry in the default table (R79). -/
theorem fetchInstr_eq_none {s : State} : fetchInstr s = none ↔ opTable.lookup (s.mem.read s.pc) = none := by
  constructor
  · intro h
    by_contra hne
    obtain ⟨p, hp⟩ := decode_three (b := s.mem.read (s.pc + 1)) (c := s.mem.read (s.pc + 2)) hne
    simp only [fetchInstr, bytesAtPc, hp] at h
    cases h
  · intro h
    simp only [fetchInstr, bytesAtPc, decode, h]

/-- Whichever the instruction, it keeps `SP` and ends at a boundary. -/
theorem exec_sp_phase {i : Instr} {s t : State} (h : exec i s = .next t) : t.sp = s.sp ∧ t.phase = .fetching := by
  cases i <;> cases h <;> exact ⟨by simp, by simp⟩

/-- Whichever the instruction, it leaves the flags or sets Z and N of some value. -/
theorem exec_flags {i : Instr} {s t : State} (h : exec i s = .next t) :
    t.flags = s.flags ∨ ∃ v, t.flags = s.flags.setZN v := by
  cases i <;> cases h <;> simp <;> exact .inr ⟨_, rfl⟩

/-- Whichever the instruction, it leaves memory or writes one cell. -/
theorem exec_mem {i : Instr} {s t : State} (h : exec i s = .next t) :
    t.mem = s.mem ∨ ∃ ea v, t.mem = s.mem.write ea v := by
  cases i <;> cases h <;> simp

/-- Whichever the instruction, it takes cycles from the budget and counts them. -/
theorem exec_spends {i : Instr} {s t : State} (h : exec i s = .next t) : s.cyc < t.cyc ∧ t.rem < s.rem := by
  cases i <;> cases h <;> simp <;> (try split) <;> omega

end Sys2Proof.Machine
end

