-- ==== Sys2Proof/Laws/Runs.lean ====
section
/-! SUPPORT. The loop of a run: what it does where a step is enabled and where none is, and the one induction over it. -/

namespace Sys2Proof.Machine

/-- Where no step is enabled the loop is over. -/
theorem runLoop_disabled (n : Nat) {s : State} (h : ¬ StepEnabled s) : runLoop n s = s := by
  cases n with
  | zero => rfl
  | succ n => unfold runLoop; exact if_neg h

/-- Where a step is enabled the loop takes it. -/
theorem runLoop_enabled (n : Nat) {s t : State} (h : step s = .next t) : runLoop (n + 1) s = runLoop n t := by
  have he := (step_cases h).1
  simp only [runLoop, if_pos he, h]

/-- What every step keeps, the loop keeps. -/
theorem runLoop_keeps {P : State → Prop} (hstep : ∀ s t, P s → step s = .next t → P t) (n : Nat) :
    ∀ s, P s → P (runLoop n s) := by
  induction n with
  | zero => intro s h; exact h
  | succ n ih =>
    intro s h
    cases hs : step s with
    | next t => rw [runLoop_enabled n hs]; exact ih t (hstep s t h hs)
    | fault r =>
      unfold runLoop
      split
      · rw [hs]; exact h
      · exact h
    | refused r =>
      unfold runLoop
      split
      · rw [hs]; exact h
      · exact h

/-- What an accepted transaction on a state was, and that no run was in progress. -/
theorem transactOn_cases {tx : Transaction} {s t : State} {reply : Reply} (h : transactOn tx s = .ok (t, reply)) :
    ¬ RunInProgress s ∧
    ((∃ vector, tx = .reset vector ∧ t = State.resetTo vector) ∨
     (∃ addr v, tx = .poke addr v ∧ t = poke addr v s) ∨
     (∃ budget, tx = .run budget ∧ budgetFits budget = true ∧ t = (run budget s).1) ∨
     (∃ cells, tx = .snapshot cells ∧ t = s)) := by
  unfold transactOn at h
  split at h
  · cases h
  · next hp =>
    refine ⟨hp, ?_⟩
    cases tx with
    | reset vector => cases h; exact .inl ⟨vector, rfl, rfl⟩
    | poke addr v => cases h; exact .inr (.inl ⟨addr, v, rfl, rfl⟩)
    | run budget =>
      simp only at h
      split at h
      · next hf => cases h; exact .inr (.inr (.inl ⟨budget, rfl, hf, rfl⟩))
      · cases h
    | snapshot cells => cases h; exact .inr (.inr (.inr ⟨cells, rfl, rfl⟩))

end Sys2Proof.Machine
end

