-- ==== Sys2Proof/Machine/Assembly.lean ====
section
/-! DEFINITION. The assembler text of an instruction (spec/30_encoding.md R84), as a list of characters. It has no effect
on any rule; the mnemonics are the spec's decision D18 (log 24). -/

namespace Sys2Proof.Machine

/-- A hexadecimal digit. -/
def hexDigit (n : Nat) : Char :=
  if n % 16 < 10 then Char.ofNat (48 + n % 16) else Char.ofNat (55 + n % 16)

/-- A byte value after `$` (R84). -/
def hexByte (b : Byte) : List Char := ['$', hexDigit (b.toNat / 16), hexDigit b.toNat]

/-- A 16-bit value after `$` (R84). -/
def hexWord (w : Addr) : List Char :=
  ['$', hexDigit (w.toNat / 4096), hexDigit (w.toNat / 256), hexDigit (w.toNat / 16), hexDigit w.toNat]

/-- The mnemonic of an operation (R84). -/
def Operation.mnemonic : Operation → List Char
  | .lda => ['L', 'D', 'A']
  | .ldx => ['L', 'D', 'X']
  | .ldy => ['L', 'D', 'Y']
  | .sta => ['S', 'T', 'A']
  | .stx => ['S', 'T', 'X']
  | .sty => ['S', 'T', 'Y']
  | .tax => ['T', 'A', 'X']
  | .tay => ['T', 'A', 'Y']
  | .txa => ['T', 'X', 'A']
  | .tya => ['T', 'Y', 'A']

/-- An operand value: one or two bytes in hexadecimal. -/
def Operand.text : Operand → List Char
  | .none => []
  | .byte b => hexByte b
  | .word w => hexWord w

/-- The operand syntax of a mode (the table of R84). -/
def Mode.operandText (m : Mode) (value : List Char) : List Char :=
  match m with
  | .imp => []
  | .imm => ' ' :: '#' :: value
  | .zp | .abs => ' ' :: value
  | .zpx | .absx => ' ' :: value ++ [',', 'X']
  | .zpy | .absy => ' ' :: value ++ [',', 'Y']
  | .indx => ' ' :: '(' :: value ++ [',', 'X', ')']
  | .indy => ' ' :: '(' :: value ++ [')', ',', 'Y']

/-- The assembler text of an instruction (R84). -/
def asmText (i : Instr) : List Char :=
  Operation.mnemonic i.form.operation ++ Mode.operandText i.form.mode (Operand.text i.form.operand)

end Sys2Proof.Machine
end

