-- ==== Sys2Proof/Tests/Slice0.lean ====
section
/-! SUPPORT. Tests of the model: ill-formed forms, one written-out word per instruction, the derived vectors of
spec/95_test_vectors.md (at most two per instruction, one step each), the halt, the transactions, and for every statement with
hypotheses a state and operands that meet them. -/

namespace Sys2Proof.Tests

open Sys2Proof Sys2Proof.Machine Sys2Proof.Claims

/-! ### Well-formedness: each check refuses an ill-formed form (R71, R72, R76) -/

theorem test_wellFormed_accepts_lda_imm : Form.wellFormed ⟨.lda, .imm, .byte 0xFF⟩ = true := by decide
theorem test_wellFormed_refuses_store_immediate : Form.wellFormed ⟨.sta, .imm, .byte 0x00⟩ = false := by decide
theorem test_wellFormed_refuses_ldx_indexed_by_x : Form.wellFormed ⟨.ldx, .zpx, .byte 0x00⟩ = false := by decide
theorem test_wellFormed_refuses_transfer_with_mode : Form.wellFormed ⟨.tax, .zp, .byte 0x00⟩ = false := by decide
theorem test_wellFormed_refuses_word_in_zero_page : Form.wellFormed ⟨.lda, .zp, .word 0x0010⟩ = false := by decide
theorem test_wellFormed_refuses_byte_in_absolute : Form.wellFormed ⟨.lda, .abs, .byte 0x10⟩ = false := by decide
theorem test_wellFormed_refuses_operand_of_transfer : Form.wellFormed ⟨.tya, .imp, .byte 0x10⟩ = false := by decide
theorem test_wellFormed_refuses_missing_operand : Form.wellFormed ⟨.sty, .abs, .none⟩ = false := by decide

/-! ### Decoding: a word of each instruction, written out from its encoding line (R131 to R174), and what is refused -/

theorem test_word_ldaImm : decode [0xA9, 0x80, 0x5A] = .ok ((.ldaImm 0x80), [0x5A]) := by decide
theorem test_word_ldaZp : decode [0xA5, 0x20, 0x5A] = .ok ((.ldaZp 0x20), [0x5A]) := by decide
theorem test_word_ldaZpX : decode [0xB5, 0x20, 0x5A] = .ok ((.ldaZpX 0x20), [0x5A]) := by decide
theorem test_word_ldaAbs : decode [0xAD, 0x71, 0x74, 0x5A] = .ok ((.ldaAbs 0x7471), [0x5A]) := by decide
theorem test_word_ldaAbsX : decode [0xBD, 0x71, 0x74, 0x5A] = .ok ((.ldaAbsX 0x7471), [0x5A]) := by decide
theorem test_word_ldaAbsY : decode [0xB9, 0x71, 0x74, 0x5A] = .ok ((.ldaAbsY 0x7471), [0x5A]) := by decide
theorem test_word_ldaIndX : decode [0xA1, 0x20, 0x5A] = .ok ((.ldaIndX 0x20), [0x5A]) := by decide
theorem test_word_ldaIndY : decode [0xB1, 0x20, 0x5A] = .ok ((.ldaIndY 0x20), [0x5A]) := by decide
theorem test_word_ldxImm : decode [0xA2, 0x80, 0x5A] = .ok ((.ldxImm 0x80), [0x5A]) := by decide
theorem test_word_ldxZp : decode [0xA6, 0x20, 0x5A] = .ok ((.ldxZp 0x20), [0x5A]) := by decide
theorem test_word_ldxZpY : decode [0xB6, 0x20, 0x5A] = .ok ((.ldxZpY 0x20), [0x5A]) := by decide
theorem test_word_ldxAbs : decode [0xAE, 0x71, 0x74, 0x5A] = .ok ((.ldxAbs 0x7471), [0x5A]) := by decide
theorem test_word_ldxAbsY : decode [0xBE, 0x71, 0x74, 0x5A] = .ok ((.ldxAbsY 0x7471), [0x5A]) := by decide
theorem test_word_ldyImm : decode [0xA0, 0x80, 0x5A] = .ok ((.ldyImm 0x80), [0x5A]) := by decide
theorem test_word_ldyZp : decode [0xA4, 0x20, 0x5A] = .ok ((.ldyZp 0x20), [0x5A]) := by decide
theorem test_word_ldyZpX : decode [0xB4, 0x20, 0x5A] = .ok ((.ldyZpX 0x20), [0x5A]) := by decide
theorem test_word_ldyAbs : decode [0xAC, 0x71, 0x74, 0x5A] = .ok ((.ldyAbs 0x7471), [0x5A]) := by decide
theorem test_word_ldyAbsX : decode [0xBC, 0x71, 0x74, 0x5A] = .ok ((.ldyAbsX 0x7471), [0x5A]) := by decide
theorem test_word_staZp : decode [0x85, 0x20, 0x5A] = .ok ((.staZp 0x20), [0x5A]) := by decide
theorem test_word_staZpX : decode [0x95, 0x20, 0x5A] = .ok ((.staZpX 0x20), [0x5A]) := by decide
theorem test_word_staAbs : decode [0x8D, 0x71, 0x74, 0x5A] = .ok ((.staAbs 0x7471), [0x5A]) := by decide
theorem test_word_staAbsX : decode [0x9D, 0x71, 0x74, 0x5A] = .ok ((.staAbsX 0x7471), [0x5A]) := by decide
theorem test_word_staAbsY : decode [0x99, 0x71, 0x74, 0x5A] = .ok ((.staAbsY 0x7471), [0x5A]) := by decide
theorem test_word_staIndX : decode [0x81, 0x20, 0x5A] = .ok ((.staIndX 0x20), [0x5A]) := by decide
theorem test_word_staIndY : decode [0x91, 0x20, 0x5A] = .ok ((.staIndY 0x20), [0x5A]) := by decide
theorem test_word_stxZp : decode [0x86, 0x20, 0x5A] = .ok ((.stxZp 0x20), [0x5A]) := by decide
theorem test_word_stxZpY : decode [0x96, 0x20, 0x5A] = .ok ((.stxZpY 0x20), [0x5A]) := by decide
theorem test_word_stxAbs : decode [0x8E, 0x71, 0x74, 0x5A] = .ok ((.stxAbs 0x7471), [0x5A]) := by decide
theorem test_word_styZp : decode [0x84, 0x20, 0x5A] = .ok ((.styZp 0x20), [0x5A]) := by decide
theorem test_word_styZpX : decode [0x94, 0x20, 0x5A] = .ok ((.styZpX 0x20), [0x5A]) := by decide
theorem test_word_styAbs : decode [0x8C, 0x71, 0x74, 0x5A] = .ok ((.styAbs 0x7471), [0x5A]) := by decide
theorem test_word_tax : decode [0xAA, 0x5A] = .ok (.tax, [0x5A]) := by decide
theorem test_word_tay : decode [0xA8, 0x5A] = .ok (.tay, [0x5A]) := by decide
theorem test_word_txa : decode [0x8A, 0x5A] = .ok (.txa, [0x5A]) := by decide
theorem test_word_tya : decode [0x98, 0x5A] = .ok (.tya, [0x5A]) := by decide

theorem test_decode_refuses_02 : decode [0x02, 0x00] = .error (.unknownOpcode 0x02) := by decide
theorem test_decode_refuses_00 : decode [0x00] = .error (.unknownOpcode 0x00) := by decide
theorem test_decode_refuses_nop : decode [0xEA] = .error (.unknownOpcode 0xEA) := by decide
theorem test_decode_refuses_truncated : decode [0xAD, 0x71] = .error (.truncated 0xAD) := by decide
theorem test_decode_refuses_empty : decode [] = .error .empty := by decide

/-- The table's numbering: byte 0 is the least significant; bits above `nbits` are 0. -/
theorem test_table_word_short : decodeTableWord 8 0xBD = some (.ldaAbsX 0x0000) := by decide
theorem test_table_word_whole : decodeTableWord 24 0x7471BD = some (.ldaAbsX 0x7471) := by decide

/-- R84: `LDA $7471,X`. -/
theorem test_asm_text : asmText (.ldaAbsX 0x7471) = ['L', 'D', 'A', ' ', '$', '7', '4', '7', '1', ',', 'X'] := by decide

/-! ### The vectors -/

/-- The start of a vector: after `Reset(0400)`, the registers, `PS` and cells listed, the bytes at 0400, and `Run(1)` begun. -/
def start (a x y ps : Byte) (bytes : List Byte) (cells : List (Addr × Byte)) : State :=
  pokeBytes bytes 0x0400
    (cells.foldl (fun s c => poke c.1 c.2 s)
      (State.setPs ps { beginRun 1 (State.resetTo 0x0400) with a := a, x := x, y := y }))

/-- What the host sees after a step. -/
def ran (cells : List Addr) : Host.Outcome State Fault Refusal → Option Snapshot
  | .next s => some (snapshot cells s)
  | .fault _ => none
  | .refused _ => none

/-- `CYC` and `REM` after a step. -/
def costs : Host.Outcome State Fault Refusal → Option (Int × Int)
  | .next s => some (s.cyc, s.rem)
  | .fault _ => none
  | .refused _ => none

/-- Vector L1: `LDA #$00`, R131. -/
theorem test_L1_lda_imm_00 :
    ran [] (step (start 0x00 0x00 0x00 0x80 [0xA9, 0x00] [])) =
      some ⟨0x0402, 0xFF, 0x00, 0x00, 0x00, 0x02, []⟩ ∧
    costs (step (start 0x00 0x00 0x00 0x80 [0xA9, 0x00] [])) = some (2, -1) ∧
    accesses (.ldaImm 0x00) (start 0x00 0x00 0x00 0x80 [0xA9, 0x00] []) = [.fetch 0x0400, .fetch 0x0401] := by decide

/-- Vector L2: `LDA #$80`, R131. -/
theorem test_L2_lda_imm_80 :
    ran [] (step (start 0x00 0x00 0x00 0x02 [0xA9, 0x80] [])) =
      some ⟨0x0402, 0xFF, 0x80, 0x00, 0x00, 0x80, []⟩ ∧
    costs (step (start 0x00 0x00 0x00 0x02 [0xA9, 0x80] [])) = some (2, -1) ∧
    accesses (.ldaImm 0x80) (start 0x00 0x00 0x00 0x02 [0xA9, 0x80] []) = [.fetch 0x0400, .fetch 0x0401] := by decide

/-- Vector L6: `LDA $10`, R132. -/
theorem test_L6_lda_10 :
    ran [] (step (start 0x00 0x00 0x00 0x00 [0xA5, 0x10] [(0x0010, 0x00)])) =
      some ⟨0x0402, 0xFF, 0x00, 0x00, 0x00, 0x02, []⟩ ∧
    costs (step (start 0x00 0x00 0x00 0x00 [0xA5, 0x10] [(0x0010, 0x00)])) = some (3, -2) ∧
    accesses (.ldaZp 0x10) (start 0x00 0x00 0x00 0x00 [0xA5, 0x10] [(0x0010, 0x00)]) = [.fetch 0x0400, .fetch 0x0401, .read 0x0010] := by decide

/-- Vector L7: `LDA $FF,X`, R133. -/
theorem test_L7_lda_ff_x :
    ran [] (step (start 0x00 0x01 0x00 0x00 [0xB5, 0xFF] [(0x0000, 0x7F), (0x0100, 0xEE)])) =
      some ⟨0x0402, 0xFF, 0x7F, 0x01, 0x00, 0x00, []⟩ ∧
    costs (step (start 0x00 0x01 0x00 0x00 [0xB5, 0xFF] [(0x0000, 0x7F), (0x0100, 0xEE)])) = some (4, -3) ∧
    accesses (.ldaZpX 0xFF) (start 0x00 0x01 0x00 0x00 [0xB5, 0xFF] [(0x0000, 0x7F), (0x0100, 0xEE)]) = [.fetch 0x0400, .fetch 0x0401, .internal, .read 0x0000] := by decide

/-- Vector L8: `LDA $80,X`, R133. -/
theorem test_L8_lda_80_x :
    ran [] (step (start 0x00 0xFF 0x00 0x00 [0xB5, 0x80] [(0x007F, 0x81)])) =
      some ⟨0x0402, 0xFF, 0x81, 0xFF, 0x00, 0x80, []⟩ ∧
    costs (step (start 0x00 0xFF 0x00 0x00 [0xB5, 0x80] [(0x007F, 0x81)])) = some (4, -3) ∧
    accesses (.ldaZpX 0x80) (start 0x00 0xFF 0x00 0x00 [0xB5, 0x80] [(0x007F, 0x81)]) = [.fetch 0x0400, .fetch 0x0401, .internal, .read 0x007F] := by decide

/-- Vector L9: `LDA $7471`, R134. -/
theorem test_L9_lda_7471 :
    ran [] (step (start 0x00 0x00 0x00 0x00 [0xAD, 0x71, 0x74] [(0x7471, 0x49)])) =
      some ⟨0x0403, 0xFF, 0x49, 0x00, 0x00, 0x00, []⟩ ∧
    costs (step (start 0x00 0x00 0x00 0x00 [0xAD, 0x71, 0x74] [(0x7471, 0x49)])) = some (4, -3) ∧
    accesses (.ldaAbs 0x7471) (start 0x00 0x00 0x00 0x00 [0xAD, 0x71, 0x74] [(0x7471, 0x49)]) = [.fetch 0x0400, .fetch 0x0401, .fetch 0x0402, .read 0x7471] := by decide

/-- Vector L11: `LDA $70FF,X`, R135. -/
theorem test_L11_lda_70ff_x :
    ran [] (step (start 0x00 0x02 0x00 0x00 [0xBD, 0xFF, 0x70] [(0x7101, 0xC4)])) =
      some ⟨0x0403, 0xFF, 0xC4, 0x02, 0x00, 0x80, []⟩ ∧
    costs (step (start 0x00 0x02 0x00 0x00 [0xBD, 0xFF, 0x70] [(0x7101, 0xC4)])) = some (5, -4) ∧
    accesses (.ldaAbsX 0x70FF) (start 0x00 0x02 0x00 0x00 [0xBD, 0xFF, 0x70] [(0x7101, 0xC4)]) = [.fetch 0x0400, .fetch 0x0401, .fetch 0x0402, .internal, .read 0x7101] := by decide

/-- Vector L14: `LDA $FFFF,X`, R135. -/
theorem test_L14_lda_ffff_x :
    ran [] (step (start 0x00 0x01 0x00 0x00 [0xBD, 0xFF, 0xFF] [(0x0000, 0x33)])) =
      some ⟨0x0403, 0xFF, 0x33, 0x01, 0x00, 0x00, []⟩ ∧
    costs (step (start 0x00 0x01 0x00 0x00 [0xBD, 0xFF, 0xFF] [(0x0000, 0x33)])) = some (5, -4) ∧
    accesses (.ldaAbsX 0xFFFF) (start 0x00 0x01 0x00 0x00 [0xBD, 0xFF, 0xFF] [(0x0000, 0x33)]) = [.fetch 0x0400, .fetch 0x0401, .fetch 0x0402, .internal, .read 0x0000] := by decide

/-- Vector L16: `LDA $FFFF,Y`, R136. -/
theorem test_L16_lda_ffff_y :
    ran [] (step (start 0x00 0x00 0x02 0x00 [0xB9, 0xFF, 0xFF] [(0x0001, 0x80)])) =
      some ⟨0x0403, 0xFF, 0x80, 0x00, 0x02, 0x80, []⟩ ∧
    costs (step (start 0x00 0x00 0x02 0x00 [0xB9, 0xFF, 0xFF] [(0x0001, 0x80)])) = some (5, -4) ∧
    accesses (.ldaAbsY 0xFFFF) (start 0x00 0x00 0x02 0x00 [0xB9, 0xFF, 0xFF] [(0x0001, 0x80)]) = [.fetch 0x0400, .fetch 0x0401, .fetch 0x0402, .internal, .read 0x0001] := by decide

/-- Vector L18: `LDA ($FE,X)`, R137. -/
theorem test_L18_lda_ind_fe_x :
    ran [] (step (start 0x00 0x01 0x00 0x00 [0xA1, 0xFE] [(0x00FF, 0x34), (0x0100, 0x12), (0x0000, 0x99), (0x1234, 0x56), (0x9934, 0x77)])) =
      some ⟨0x0402, 0xFF, 0x56, 0x01, 0x00, 0x00, []⟩ ∧
    costs (step (start 0x00 0x01 0x00 0x00 [0xA1, 0xFE] [(0x00FF, 0x34), (0x0100, 0x12), (0x0000, 0x99), (0x1234, 0x56), (0x9934, 0x77)])) = some (6, -5) ∧
    accesses (.ldaIndX 0xFE) (start 0x00 0x01 0x00 0x00 [0xA1, 0xFE] [(0x00FF, 0x34), (0x0100, 0x12), (0x0000, 0x99), (0x1234, 0x56), (0x9934, 0x77)]) = [.fetch 0x0400, .fetch 0x0401, .internal, .read 0x00FF, .read 0x0100, .read 0x1234] := by decide

/-- Vector L19: `LDA ($F0,X)`, R137. -/
theorem test_L19_lda_ind_f0_x :
    ran [] (step (start 0x00 0x20 0x00 0x00 [0xA1, 0xF0] [(0x0010, 0xCD), (0x0011, 0xAB)])) =
      some ⟨0x0402, 0xFF, 0x00, 0x20, 0x00, 0x02, []⟩ ∧
    costs (step (start 0x00 0x20 0x00 0x00 [0xA1, 0xF0] [(0x0010, 0xCD), (0x0011, 0xAB)])) = some (6, -5) ∧
    accesses (.ldaIndX 0xF0) (start 0x00 0x20 0x00 0x00 [0xA1, 0xF0] [(0x0010, 0xCD), (0x0011, 0xAB)]) = [.fetch 0x0400, .fetch 0x0401, .internal, .read 0x0010, .read 0x0011, .read 0xABCD] := by decide

/-- Vector L20: `LDA ($20),Y`, R138. -/
theorem test_L20_lda_ind_20_y :
    ran [] (step (start 0x00 0x00 0x04 0x00 [0xB1, 0x20] [(0x0024, 0x00), (0x0025, 0x80), (0x8000, 0xFF), (0x8004, 0x11), (0x0020, 0x00), (0x0021, 0x90), (0x9004, 0x22)])) =
      some ⟨0x0402, 0xFF, 0xFF, 0x00, 0x04, 0x80, []⟩ ∧
    costs (step (start 0x00 0x00 0x04 0x00 [0xB1, 0x20] [(0x0024, 0x00), (0x0025, 0x80), (0x8000, 0xFF), (0x8004, 0x11), (0x0020, 0x00), (0x0021, 0x90), (0x9004, 0x22)])) = some (6, -5) ∧
    accesses (.ldaIndY 0x20) (start 0x00 0x00 0x04 0x00 [0xB1, 0x20] [(0x0024, 0x00), (0x0025, 0x80), (0x8000, 0xFF), (0x8004, 0x11), (0x0020, 0x00), (0x0021, 0x90), (0x9004, 0x22)]) = [.fetch 0x0400, .fetch 0x0401, .internal, .read 0x0024, .read 0x0025, .read 0x8000] := by decide

/-- Vector L21: `LDX #$36`, R139. -/
theorem test_L21_ldx_imm_36 :
    ran [] (step (start 0x00 0x00 0x00 0x00 [0xA2, 0x36] [])) =
      some ⟨0x0402, 0xFF, 0x00, 0x36, 0x00, 0x00, []⟩ ∧
    costs (step (start 0x00 0x00 0x00 0x00 [0xA2, 0x36] [])) = some (2, -1) ∧
    accesses (.ldxImm 0x36) (start 0x00 0x00 0x00 0x00 [0xA2, 0x36] []) = [.fetch 0x0400, .fetch 0x0401] := by decide

/-- Vector L22: `LDX $10`, R140. -/
theorem test_L22_ldx_10 :
    ran [] (step (start 0x00 0x00 0x00 0x00 [0xA6, 0x10] [(0x0010, 0xFF)])) =
      some ⟨0x0402, 0xFF, 0x00, 0xFF, 0x00, 0x80, []⟩ ∧
    costs (step (start 0x00 0x00 0x00 0x00 [0xA6, 0x10] [(0x0010, 0xFF)])) = some (3, -2) ∧
    accesses (.ldxZp 0x10) (start 0x00 0x00 0x00 0x00 [0xA6, 0x10] [(0x0010, 0xFF)]) = [.fetch 0x0400, .fetch 0x0401, .read 0x0010] := by decide

/-- Vector L23: `LDX $F0,Y`, R141. -/
theorem test_L23_ldx_f0_y :
    ran [] (step (start 0x00 0x00 0x20 0x00 [0xB6, 0xF0] [(0x0010, 0x01)])) =
      some ⟨0x0402, 0xFF, 0x00, 0x01, 0x20, 0x00, []⟩ ∧
    costs (step (start 0x00 0x00 0x20 0x00 [0xB6, 0xF0] [(0x0010, 0x01)])) = some (4, -3) ∧
    accesses (.ldxZpY 0xF0) (start 0x00 0x00 0x20 0x00 [0xB6, 0xF0] [(0x0010, 0x01)]) = [.fetch 0x0400, .fetch 0x0401, .internal, .read 0x0010] := by decide

/-- Vector L24: `LDX $0200`, R142. -/
theorem test_L24_ldx_0200 :
    ran [] (step (start 0x00 0x05 0x00 0x00 [0xAE, 0x00, 0x02] [])) =
      some ⟨0x0403, 0xFF, 0x00, 0x00, 0x00, 0x02, []⟩ ∧
    costs (step (start 0x00 0x05 0x00 0x00 [0xAE, 0x00, 0x02] [])) = some (4, -3) ∧
    accesses (.ldxAbs 0x0200) (start 0x00 0x05 0x00 0x00 [0xAE, 0x00, 0x02] []) = [.fetch 0x0400, .fetch 0x0401, .fetch 0x0402, .read 0x0200] := by decide

/-- Vector L25: `LDX $1280,Y`, R143. -/
theorem test_L25_ldx_1280_y :
    ran [] (step (start 0x00 0x00 0x80 0x00 [0xBE, 0x80, 0x12] [(0x1300, 0x7F)])) =
      some ⟨0x0403, 0xFF, 0x00, 0x7F, 0x80, 0x00, []⟩ ∧
    costs (step (start 0x00 0x00 0x80 0x00 [0xBE, 0x80, 0x12] [(0x1300, 0x7F)])) = some (5, -4) ∧
    accesses (.ldxAbsY 0x1280) (start 0x00 0x00 0x80 0x00 [0xBE, 0x80, 0x12] [(0x1300, 0x7F)]) = [.fetch 0x0400, .fetch 0x0401, .fetch 0x0402, .internal, .read 0x1300] := by decide

/-- Vector L26: `LDY #$00`, R144. -/
theorem test_L26_ldy_imm_00 :
    ran [] (step (start 0x00 0x00 0x09 0x80 [0xA0, 0x00] [])) =
      some ⟨0x0402, 0xFF, 0x00, 0x00, 0x00, 0x02, []⟩ ∧
    costs (step (start 0x00 0x00 0x09 0x80 [0xA0, 0x00] [])) = some (2, -1) ∧
    accesses (.ldyImm 0x00) (start 0x00 0x00 0x09 0x80 [0xA0, 0x00] []) = [.fetch 0x0400, .fetch 0x0401] := by decide

/-- Vector L27: `LDY $FF`, R145. -/
theorem test_L27_ldy_ff :
    ran [] (step (start 0x00 0x00 0x00 0x00 [0xA4, 0xFF] [(0x00FF, 0x80)])) =
      some ⟨0x0402, 0xFF, 0x00, 0x00, 0x80, 0x80, []⟩ ∧
    costs (step (start 0x00 0x00 0x00 0x00 [0xA4, 0xFF] [(0x00FF, 0x80)])) = some (3, -2) ∧
    accesses (.ldyZp 0xFF) (start 0x00 0x00 0x00 0x00 [0xA4, 0xFF] [(0x00FF, 0x80)]) = [.fetch 0x0400, .fetch 0x0401, .read 0x00FF] := by decide

/-- Vector L28: `LDY $80,X`, R146. -/
theorem test_L28_ldy_80_x :
    ran [] (step (start 0x00 0x80 0x00 0x00 [0xB4, 0x80] [(0x0000, 0x05)])) =
      some ⟨0x0402, 0xFF, 0x00, 0x80, 0x05, 0x00, []⟩ ∧
    costs (step (start 0x00 0x80 0x00 0x00 [0xB4, 0x80] [(0x0000, 0x05)])) = some (4, -3) ∧
    accesses (.ldyZpX 0x80) (start 0x00 0x80 0x00 0x00 [0xB4, 0x80] [(0x0000, 0x05)]) = [.fetch 0x0400, .fetch 0x0401, .internal, .read 0x0000] := by decide

/-- Vector L29: `LDY $1234`, R147. -/
theorem test_L29_ldy_1234 :
    ran [] (step (start 0x00 0x00 0x00 0x00 [0xAC, 0x34, 0x12] [(0x1234, 0xC0)])) =
      some ⟨0x0403, 0xFF, 0x00, 0x00, 0xC0, 0x80, []⟩ ∧
    costs (step (start 0x00 0x00 0x00 0x00 [0xAC, 0x34, 0x12] [(0x1234, 0xC0)])) = some (4, -3) ∧
    accesses (.ldyAbs 0x1234) (start 0x00 0x00 0x00 0x00 [0xAC, 0x34, 0x12] [(0x1234, 0xC0)]) = [.fetch 0x0400, .fetch 0x0401, .fetch 0x0402, .read 0x1234] := by decide

/-- Vector L30: `LDY $3000,X`, R148. -/
theorem test_L30_ldy_3000_x :
    ran [] (step (start 0x00 0xFF 0x00 0x00 [0xBC, 0x00, 0x30] [])) =
      some ⟨0x0403, 0xFF, 0x00, 0xFF, 0x00, 0x02, []⟩ ∧
    costs (step (start 0x00 0xFF 0x00 0x00 [0xBC, 0x00, 0x30] [])) = some (4, -3) ∧
    accesses (.ldyAbsX 0x3000) (start 0x00 0xFF 0x00 0x00 [0xBC, 0x00, 0x30] []) = [.fetch 0x0400, .fetch 0x0401, .fetch 0x0402, .read 0x30FF] := by decide

/-- Vector S1: `STA $10`, R151. -/
theorem test_S1_sta_10 :
    ran [0x0010] (step (start 0x00 0x00 0x00 0x80 [0x85, 0x10] [(0x0010, 0x55)])) =
      some ⟨0x0402, 0xFF, 0x00, 0x00, 0x00, 0x80, [(0x0010, 0x00)]⟩ ∧
    costs (step (start 0x00 0x00 0x00 0x80 [0x85, 0x10] [(0x0010, 0x55)])) = some (3, -2) ∧
    accesses (.staZp 0x10) (start 0x00 0x00 0x00 0x80 [0x85, 0x10] [(0x0010, 0x55)]) = [.fetch 0x0400, .fetch 0x0401, .write 0x0010 0x00] := by decide

/-- Vector S2: `STA $FF,X`, R152. -/
theorem test_S2_sta_ff_x :
    ran [0x0000, 0x0100] (step (start 0x42 0x01 0x00 0x02 [0x95, 0xFF] [])) =
      some ⟨0x0402, 0xFF, 0x42, 0x01, 0x00, 0x02, [(0x0000, 0x42), (0x0100, 0x00)]⟩ ∧
    costs (step (start 0x42 0x01 0x00 0x02 [0x95, 0xFF] [])) = some (4, -3) ∧
    accesses (.staZpX 0xFF) (start 0x42 0x01 0x00 0x02 [0x95, 0xFF] []) = [.fetch 0x0400, .fetch 0x0401, .internal, .write 0x0000 0x42] := by decide

/-- Vector S3: `STA $0200`, R153. -/
theorem test_S3_sta_0200 :
    ran [0x0200] (step (start 0x49 0x00 0x00 0x00 [0x8D, 0x00, 0x02] [])) =
      some ⟨0x0403, 0xFF, 0x49, 0x00, 0x00, 0x00, [(0x0200, 0x49)]⟩ ∧
    costs (step (start 0x49 0x00 0x00 0x00 [0x8D, 0x00, 0x02] [])) = some (4, -3) ∧
    accesses (.staAbs 0x0200) (start 0x49 0x00 0x00 0x00 [0x8D, 0x00, 0x02] []) = [.fetch 0x0400, .fetch 0x0401, .fetch 0x0402, .write 0x0200 0x49] := by decide

/-- Vector S4: `STA $70FF,X`, R154. -/
theorem test_S4_sta_70ff_x :
    ran [0x7101] (step (start 0x11 0x02 0x00 0x00 [0x9D, 0xFF, 0x70] [])) =
      some ⟨0x0403, 0xFF, 0x11, 0x02, 0x00, 0x00, [(0x7101, 0x11)]⟩ ∧
    costs (step (start 0x11 0x02 0x00 0x00 [0x9D, 0xFF, 0x70] [])) = some (5, -4) ∧
    accesses (.staAbsX 0x70FF) (start 0x11 0x02 0x00 0x00 [0x9D, 0xFF, 0x70] []) = [.fetch 0x0400, .fetch 0x0401, .fetch 0x0402, .internal, .write 0x7101 0x11] := by decide

/-- Vector S5: `STA $7000,X`, R154. -/
theorem test_S5_sta_7000_x :
    ran [0x7002] (step (start 0x11 0x02 0x00 0x00 [0x9D, 0x00, 0x70] [])) =
      some ⟨0x0403, 0xFF, 0x11, 0x02, 0x00, 0x00, [(0x7002, 0x11)]⟩ ∧
    costs (step (start 0x11 0x02 0x00 0x00 [0x9D, 0x00, 0x70] [])) = some (4, -3) ∧
    accesses (.staAbsX 0x7000) (start 0x11 0x02 0x00 0x00 [0x9D, 0x00, 0x70] []) = [.fetch 0x0400, .fetch 0x0401, .fetch 0x0402, .write 0x7002 0x11] := by decide

/-- Vector S6: `STA $02F0,Y`, R155. -/
theorem test_S6_sta_02f0_y :
    ran [0x02FF] (step (start 0x80 0x00 0x0F 0x00 [0x99, 0xF0, 0x02] [])) =
      some ⟨0x0403, 0xFF, 0x80, 0x00, 0x0F, 0x00, [(0x02FF, 0x80)]⟩ ∧
    costs (step (start 0x80 0x00 0x0F 0x00 [0x99, 0xF0, 0x02] [])) = some (4, -3) ∧
    accesses (.staAbsY 0x02F0) (start 0x80 0x00 0x0F 0x00 [0x99, 0xF0, 0x02] []) = [.fetch 0x0400, .fetch 0x0401, .fetch 0x0402, .write 0x02FF 0x80] := by decide

/-- Vector S7: `STA $FFFF,Y`, R155. -/
theorem test_S7_sta_ffff_y :
    ran [0x0000] (step (start 0xAB 0x00 0x01 0x00 [0x99, 0xFF, 0xFF] [])) =
      some ⟨0x0403, 0xFF, 0xAB, 0x00, 0x01, 0x00, [(0x0000, 0xAB)]⟩ ∧
    costs (step (start 0xAB 0x00 0x01 0x00 [0x99, 0xFF, 0xFF] [])) = some (5, -4) ∧
    accesses (.staAbsY 0xFFFF) (start 0xAB 0x00 0x01 0x00 [0x99, 0xFF, 0xFF] []) = [.fetch 0x0400, .fetch 0x0401, .fetch 0x0402, .internal, .write 0x0000 0xAB] := by decide

/-- Vector S8: `STA ($20,X)`, R156. -/
theorem test_S8_sta_ind_20_x :
    ran [0x8000] (step (start 0x5A 0x04 0x00 0xFF [0x81, 0x20] [(0x0024, 0x00), (0x0025, 0x80)])) =
      some ⟨0x0402, 0xFF, 0x5A, 0x04, 0x00, 0xFF, [(0x8000, 0x5A)]⟩ ∧
    costs (step (start 0x5A 0x04 0x00 0xFF [0x81, 0x20] [(0x0024, 0x00), (0x0025, 0x80)])) = some (6, -5) ∧
    accesses (.staIndX 0x20) (start 0x5A 0x04 0x00 0xFF [0x81, 0x20] [(0x0024, 0x00), (0x0025, 0x80)]) = [.fetch 0x0400, .fetch 0x0401, .internal, .read 0x0024, .read 0x0025, .write 0x8000 0x5A] := by decide

/-- Vector S9: `STA ($20),Y`, R157. -/
theorem test_S9_sta_ind_20_y :
    ran [0x8000, 0x8004] (step (start 0x5A 0x00 0x04 0x00 [0x91, 0x20] [(0x0024, 0x00), (0x0025, 0x80)])) =
      some ⟨0x0402, 0xFF, 0x5A, 0x00, 0x04, 0x00, [(0x8000, 0x5A), (0x8004, 0x00)]⟩ ∧
    costs (step (start 0x5A 0x00 0x04 0x00 [0x91, 0x20] [(0x0024, 0x00), (0x0025, 0x80)])) = some (6, -5) ∧
    accesses (.staIndY 0x20) (start 0x5A 0x00 0x04 0x00 [0x91, 0x20] [(0x0024, 0x00), (0x0025, 0x80)]) = [.fetch 0x0400, .fetch 0x0401, .internal, .read 0x0024, .read 0x0025, .write 0x8000 0x5A] := by decide

/-- Vector S10: `STX $00`, R158. -/
theorem test_S10_stx_00 :
    ran [0x0000] (step (start 0x00 0x36 0x00 0x00 [0x86, 0x00] [])) =
      some ⟨0x0402, 0xFF, 0x00, 0x36, 0x00, 0x00, [(0x0000, 0x36)]⟩ ∧
    costs (step (start 0x00 0x36 0x00 0x00 [0x86, 0x00] [])) = some (3, -2) ∧
    accesses (.stxZp 0x00) (start 0x00 0x36 0x00 0x00 [0x86, 0x00] []) = [.fetch 0x0400, .fetch 0x0401, .write 0x0000 0x36] := by decide

/-- Vector S11: `STX $80,Y`, R159. -/
theorem test_S11_stx_80_y :
    ran [0x0010] (step (start 0x00 0x07 0x90 0x00 [0x96, 0x80] [])) =
      some ⟨0x0402, 0xFF, 0x00, 0x07, 0x90, 0x00, [(0x0010, 0x07)]⟩ ∧
    costs (step (start 0x00 0x07 0x90 0x00 [0x96, 0x80] [])) = some (4, -3) ∧
    accesses (.stxZpY 0x80) (start 0x00 0x07 0x90 0x00 [0x96, 0x80] []) = [.fetch 0x0400, .fetch 0x0401, .internal, .write 0x0010 0x07] := by decide

/-- Vector S12: `STX $FFFF`, R160. -/
theorem test_S12_stx_ffff :
    ran [0xFFFF] (step (start 0x00 0x01 0x00 0x00 [0x8E, 0xFF, 0xFF] [])) =
      some ⟨0x0403, 0xFF, 0x00, 0x01, 0x00, 0x00, [(0xFFFF, 0x01)]⟩ ∧
    costs (step (start 0x00 0x01 0x00 0x00 [0x8E, 0xFF, 0xFF] [])) = some (4, -3) ∧
    accesses (.stxAbs 0xFFFF) (start 0x00 0x01 0x00 0x00 [0x8E, 0xFF, 0xFF] []) = [.fetch 0x0400, .fetch 0x0401, .fetch 0x0402, .write 0xFFFF 0x01] := by decide

/-- Vector S13: `STY $7F`, R161. -/
theorem test_S13_sty_7f :
    ran [0x007F] (step (start 0x00 0x00 0xEE 0x00 [0x84, 0x7F] [])) =
      some ⟨0x0402, 0xFF, 0x00, 0x00, 0xEE, 0x00, [(0x007F, 0xEE)]⟩ ∧
    costs (step (start 0x00 0x00 0xEE 0x00 [0x84, 0x7F] [])) = some (3, -2) ∧
    accesses (.styZp 0x7F) (start 0x00 0x00 0xEE 0x00 [0x84, 0x7F] []) = [.fetch 0x0400, .fetch 0x0401, .write 0x007F 0xEE] := by decide

/-- Vector S14: `STY $10,X`, R162. -/
theorem test_S14_sty_10_x :
    ran [0x0015] (step (start 0x00 0x05 0x09 0x00 [0x94, 0x10] [])) =
      some ⟨0x0402, 0xFF, 0x00, 0x05, 0x09, 0x00, [(0x0015, 0x09)]⟩ ∧
    costs (step (start 0x00 0x05 0x09 0x00 [0x94, 0x10] [])) = some (4, -3) ∧
    accesses (.styZpX 0x10) (start 0x00 0x05 0x09 0x00 [0x94, 0x10] []) = [.fetch 0x0400, .fetch 0x0401, .internal, .write 0x0015 0x09] := by decide

/-- Vector S15: `STY $4000`, R163. -/
theorem test_S15_sty_4000 :
    ran [0x4000] (step (start 0x00 0x00 0x00 0x80 [0x8C, 0x00, 0x40] [(0x4000, 0x77)])) =
      some ⟨0x0403, 0xFF, 0x00, 0x00, 0x00, 0x80, [(0x4000, 0x00)]⟩ ∧
    costs (step (start 0x00 0x00 0x00 0x80 [0x8C, 0x00, 0x40] [(0x4000, 0x77)])) = some (4, -3) ∧
    accesses (.styAbs 0x4000) (start 0x00 0x00 0x00 0x80 [0x8C, 0x00, 0x40] [(0x4000, 0x77)]) = [.fetch 0x0400, .fetch 0x0401, .fetch 0x0402, .write 0x4000 0x00] := by decide

/-- Vector T1: `TAX`, R171. -/
theorem test_T1_tax :
    ran [] (step (start 0x80 0x01 0x00 0x02 [0xAA] [])) =
      some ⟨0x0401, 0xFF, 0x80, 0x80, 0x00, 0x80, []⟩ ∧
    costs (step (start 0x80 0x01 0x00 0x02 [0xAA] [])) = some (2, -1) ∧
    accesses .tax (start 0x80 0x01 0x00 0x02 [0xAA] []) = [.fetch 0x0400, .internal] := by decide

/-- Vector T2: `TAX`, R171. -/
theorem test_T2_tax :
    ran [] (step (start 0x00 0x01 0x00 0x80 [0xAA] [])) =
      some ⟨0x0401, 0xFF, 0x00, 0x00, 0x00, 0x02, []⟩ ∧
    costs (step (start 0x00 0x01 0x00 0x80 [0xAA] [])) = some (2, -1) ∧
    accesses .tax (start 0x00 0x01 0x00 0x80 [0xAA] []) = [.fetch 0x0400, .internal] := by decide

/-- Vector T3: `TAY`, R172. -/
theorem test_T3_tay :
    ran [] (step (start 0x00 0x00 0x55 0x00 [0xA8] [])) =
      some ⟨0x0401, 0xFF, 0x00, 0x00, 0x00, 0x02, []⟩ ∧
    costs (step (start 0x00 0x00 0x55 0x00 [0xA8] [])) = some (2, -1) ∧
    accesses .tay (start 0x00 0x00 0x55 0x00 [0xA8] []) = [.fetch 0x0400, .internal] := by decide

/-- Vector T4: `TXA`, R173. -/
theorem test_T4_txa :
    ran [] (step (start 0xFF 0x7F 0x00 0x80 [0x8A] [])) =
      some ⟨0x0401, 0xFF, 0x7F, 0x7F, 0x00, 0x00, []⟩ ∧
    costs (step (start 0xFF 0x7F 0x00 0x80 [0x8A] [])) = some (2, -1) ∧
    accesses .txa (start 0xFF 0x7F 0x00 0x80 [0x8A] []) = [.fetch 0x0400, .internal] := by decide

/-- Vector T5: `TYA`, R174. -/
theorem test_T5_tya :
    ran [] (step (start 0x00 0x00 0xC3 0x02 [0x98] [])) =
      some ⟨0x0401, 0xFF, 0xC3, 0x00, 0xC3, 0x80, []⟩ ∧
    costs (step (start 0x00 0x00 0xC3 0x02 [0x98] [])) = some (2, -1) ∧
    accesses .tya (start 0x00 0x00 0xC3 0x02 [0x98] []) = [.fetch 0x0400, .internal] := by decide

/-- Vector T6: `TYA`, R174. -/
theorem test_T6_tya :
    ran [] (step (start 0x00 0x00 0x00 0x00 [0x98] [])) =
      some ⟨0x0401, 0xFF, 0x00, 0x00, 0x00, 0x02, []⟩ ∧
    costs (step (start 0x00 0x00 0x00 0x00 [0x98] [])) = some (2, -1) ∧
    accesses .tya (start 0x00 0x00 0x00 0x00 [0x98] []) = [.fetch 0x0400, .internal] := by decide

/-! ### The halt, budgets and the address wrap -/

/-- The state a run ends in and its report, as the host sees them. -/
def report (cells : List Addr) (r : State × RunReport) : Snapshot × Phase × Int × RunReport :=
  (snapshot cells r.1, r.1.phase, r.1.rem, r.2)

/-- Vector H1, for a budget of 6. -/
theorem test_H1_unknown_opcode_halts :
    report [0x0400] (run 6 (start 0x07 0 0 0x83 [0x02] [])) =
      (⟨0x0401, 0xFF, 0x07, 0, 0, 0x83, [(0x0400, 0x02)]⟩, .halted, 0, ⟨0, .haltedUnknownOpcode⟩) := by decide

/-- Vector H3: EA is no instruction here. -/
theorem test_H3_nop_halts :
    report [] (run 5 (start 0 0 0 0 [0xEA] [])) =
      (⟨0x0401, 0xFF, 0, 0, 0, 0, []⟩, .halted, 0, ⟨0, .haltedUnknownOpcode⟩) := by decide

/-- Vector H5: a negative budget fetches nothing. -/
theorem test_H5_negative_budget :
    report [] (run (-4) (start 0 0 0 0 [0x02] [])) =
      (⟨0x0400, 0xFF, 0, 0, 0, 0, []⟩, .fetching, -4, ⟨0, .exhausted⟩) := by decide

/-- Vectors H7 and H8: after the halt of H1 a run goes on one past the opcode, or only clears the halt. -/
theorem test_H7_run_after_halt :
    report [] (run 1 (poke 0x0401 0xAA (run 1 (start 0x07 0 0 0x83 [0x02] [])).1)) =
      (⟨0x0402, 0xFF, 0x07, 0x07, 0, 0x01, []⟩, .fetching, -1, ⟨2, .exhausted⟩) := by decide
theorem test_H8_run_zero_clears_halt :
    report [] (run 0 (run 1 (start 0x07 0 0 0x83 [0x02] [])).1) =
      (⟨0x0401, 0xFF, 0x07, 0, 0, 0x83, []⟩, .fetching, 0, ⟨0, .exhausted⟩) := by decide

/-- Vector B1: the largest overshoot. -/
theorem test_B1_largest_overshoot :
    report [] (run 1 (start 0 0x04 0 0 [0xA1, 0x20] [(0x0025, 0x80), (0x8000, 0xFF)])) =
      (⟨0x0402, 0xFF, 0xFF, 0x04, 0, 0x80, []⟩, .fetching, -5, ⟨6, .exhausted⟩) := by decide

/-- Vector W2: an operand split across the wrap of PC. -/
theorem test_W2_operand_across_the_wrap :
    report [] (run 1 (pokeBytes [0xAD, 0x10, 0x00] 0xFFFE (poke 0x0010 0x7F (State.resetTo 0xFFFE)))) =
      (⟨0x0001, 0xFF, 0x7F, 0, 0, 0, []⟩, .fetching, -3, ⟨4, .exhausted⟩) := by decide

/-- Vector W3: the halt's PC wraps. -/
theorem test_W3_halt_wraps :
    report [] (run 9 (poke 0xFFFF 0x02 (State.resetTo 0xFFFF))) =
      (⟨0x0000, 0xFF, 0, 0, 0, 0, []⟩, .halted, 0, ⟨0, .haltedUnknownOpcode⟩) := by decide

/-- Vector M1: the store overwrites the next opcode, and the next fetch sees it. -/
theorem test_M1_self_modifying :
    report [0x0403] (run 5 (start 0xAA 0 0 0 [0x8D, 0x03, 0x04, 0x02] [])) =
      (⟨0x0404, 0xFF, 0xAA, 0xAA, 0, 0x80, [(0x0403, 0xAA)]⟩, .fetching, -1, ⟨6, .exhausted⟩) := by decide

/-- R23, R111: where no step is enabled the machine stops by name. -/
theorem test_step_after_reset_is_exhausted : ran [] (step State.reset) = none ∧ ¬ StepEnabled State.reset := by decide

/-! ### Transactions -/

/-- R8, R31, R204: reset, poke, run, snapshot, from before the first reset. -/
theorem test_session :
    session [.reset 0xE000, .poke 0xE000 0xA9, .poke 0xE001 0x36, .run 1, .snapshot [0xE001]] none =
      .ok (some (run 1 (poke 0xE001 0x36 (poke 0xE000 0xA9 (State.resetTo 0xE000)))).1,
        [.done, .done, .done, .ran ⟨2, .exhausted⟩, .shown ⟨0xE002, 0xFF, 0x36, 0, 0, 0, [(0xE001, 0x36)]⟩]) := by decide

theorem test_poke_before_reset_refused : transact (.poke 0x0000 0x01) none = .error .beforeReset := by decide
theorem test_poke_during_run_refused :
    transact (.poke 0x0000 0x01) (some (start 0 0 0 0 [0xAA] [])) = .error .runInProgress := by decide

/-! ### The host's fetch -/

theorem test_withFetchWord_runs :
    ran [] (step (State.reset.withFetchWord 8 0xA9)) = some ⟨0xE002, 0xFF, 0, 0, 0, 0x02, []⟩ := by decide
theorem test_withFetchWord_whole_word :
    ran [] (step (State.reset.withFetchWord 16 0x80A9)) = some ⟨0xE002, 0xFF, 0x80, 0, 0, 0x80, []⟩ := by decide

/-! ### Memory -/

theorem test_write_of_unlisted_value_removes_the_entry :
    Memory.write (Memory.write [] 0x0010 0x55) 0x0010 0x00 = [] := by decide
theorem test_writes_are_listed_in_order :
    Memory.write (Memory.write [] 0x0010 0x55) 0x0002 0x07 = [(0x0002, 0x07), (0x0010, 0x55)] := by decide
theorem test_unsorted_memory_is_not_canonical : ¬ Memory.wf [(2, 0x01), (1, 0x01)] := by decide
theorem test_zero_entry_is_not_canonical : ¬ Memory.wf [(2, 0x00)] := by decide
theorem test_address_outside_is_not_canonical : ¬ Memory.wf [(65536, 0x01)] := by decide

/-! ### Witnesses: each statement's hypotheses are met by a concrete state and operands -/

/-- LDA #$80 at 0400 with a budget. -/
def atLda : State := start 0 0 0 0 [0xA9, 0x80] []

/-- An unrecognised opcode at 0400 with a budget. -/
def atUnknown : State := start 0 0 0 0 [0x02] []

/-- A halted engine. -/
def halted : State := (run 1 atUnknown).1

/-- STA $0403 at 0400, the next opcode, with a budget for two instructions. -/
def atStaNext (v : Byte) : State := { start v 0 0 0 [0x8D, 0x03, 0x04] [] with rem := 9 }

/-- The state after an outcome, for the witnesses. -/
def after : Host.Outcome State Fault Refusal → State
  | .next s => s
  | .fault _ => State.reset
  | .refused _ => State.reset

theorem witness_DecodedBytesAreTheEncodingOfTheInstruction :
    decode [0xBD, 0x71, 0x74, 0xAA] = .ok (.ldaAbsX 0x7471, [0xAA]) := by decide

theorem witness_AnyValidTableRunsEveryOpcode :
    OpTable.Valid opTable ∧ OpTable.Valid [⟨0x00, .ldx, .zpx⟩] ∧
    OpTable.lookup [⟨0x00, .ldx, .zpx⟩] (State.reset.mem.read State.reset.pc) ≠ none ∧
    opTable.lookup (State.reset.mem.read State.reset.pc) = none := by decide

theorem witness_StepRunsTheDecodedInstruction :
    StepEnabled atLda ∧
    decode [atLda.mem.read atLda.pc, atLda.mem.read (atLda.pc + 1), atLda.mem.read (atLda.pc + 2)] =
      .ok (.ldaImm 0x80, [0x00]) := by decide

theorem witness_UnrecognisedOpcodeHaltsTheRun :
    StepEnabled atUnknown ∧ atUnknown.mem.read atUnknown.pc ∉ opcodeBytes := by decide

theorem witness_StepAnswersExactlyWhereEnabled : StepEnabled atLda ∧ ¬ StepEnabled halted ∧ ¬ StepEnabled State.reset := by
  decide

theorem witness_StepWithoutBudgetOrAfterHaltStopsByName :
    (State.reset.phase = .fetching ∧ State.reset.rem ≤ 0) ∧ halted.phase = .halted ∧
    (fetchOpcode atLda).phase = .executing := by decide

theorem witness_StepRefinesThePseudocodeEngine : StepEnabled atLda ∧ StepEnabled atUnknown := by decide

/-- For the statements about what `exec` leaves: of a load, a store and a transfer. -/
theorem witness_exec_answers :
    exec (.ldaIndX 0xFE) atLda = .next (after (exec (.ldaIndX 0xFE) atLda)) ∧
    exec (.staAbsX 0xFFFF) atLda = .next (after (exec (.staAbsX 0xFFFF) atLda)) ∧
    exec .tya halted = .next (after (exec .tya halted)) := ⟨rfl, rfl, rfl⟩

theorem witness_InstructionCostsAreThoseOfTheTable :
    exec (.ldaAbsX 0x70FF) atLda = .next (after (exec (.ldaAbsX 0x70FF) atLda)) := rfl
theorem witness_CostIsTheNumberOfCycles :
    exec (.staIndY 0xFF) atLda = .next (after (exec (.staIndY 0xFF) atLda)) := rfl
theorem witness_CyclesFetchTheInstructionAndMakeItsWrites :
    exec (.styAbs 0xFFFF) atLda = .next (after (exec (.styAbs 0xFFFF) atLda)) := rfl
theorem witness_BudgetDoesNotChangeWhatAnInstructionDoes :
    exec (.ldxAbsY 0xFFFF) atLda = .next (after (exec (.ldxAbsY 0xFFFF) atLda)) := rfl
theorem witness_ZeroAndNegativeComeFromTheNewValue :
    exec (.ldaImm 0x00) atLda = .next (after (exec (.ldaImm 0x00) atLda)) ∧
    exec .tax atLda = .next (after (exec .tax atLda)) ∧ exec .tay atLda = .next (after (exec .tay atLda)) ∧
    exec (.staZp 0x00) atLda = .next (after (exec (.staZp 0x00) atLda)) := ⟨rfl, rfl, rfl, rfl⟩
theorem witness_IndirectYIsIndirectXKeyedByY :
    exec (.ldaIndY 0xFF) atLda = .next (after (exec (.ldaIndY 0xFF) atLda)) ∧
    exec (.staIndY 0xFF) atLda = .next (after (exec (.staIndY 0xFF) atLda)) := ⟨rfl, rfl⟩

theorem witness_StepsLookOnlyAtTheCellsOfTheirCycles :
    StepEnabled atLda ∧
    decode [atLda.mem.read atLda.pc, atLda.mem.read (atLda.pc + 1), atLda.mem.read (atLda.pc + 2)] =
      .ok (.ldaImm 0x80, [0x00]) ∧
    (∀ addr, Looks (accesses (.ldaImm 0x80) atLda) addr →
      Memory.read (Memory.write atLda.mem 0x0402 0x77) addr = atLda.mem.read addr) ∧
    step atLda = .next (after (step atLda)) := by
  refine ⟨by decide, by decide, fun addr h => ?_, rfl⟩
  have hc : accesses (.ldaImm 0x80) atLda = [.fetch 0x0400, .fetch 0x0401] := by decide
  rw [hc] at h
  simp only [Looks, List.mem_cons, List.not_mem_nil, or_false, Access.fetch.injEq, reduceCtorEq] at h
  refine Memory.read_write_other _ _ ?_
  rcases h with rfl | rfl <;> decide

theorem witness_step_answers : step atLda = .next (after (step atLda)) := rfl
theorem witness_ProgramCounterAdvancesByTheLength :
    exec (.ldaAbs 0x7471) atLda = .next (after (exec (.ldaAbs 0x7471) atLda)) ∧
    step atUnknown = .next (after (step atUnknown)) ∧ (after (step atUnknown)).phase = .halted :=
  ⟨rfl, rfl, rfl⟩
theorem witness_StackPointerIsNeitherReadNorWritten : step atLda = .next (after (step atLda)) := rfl
theorem witness_UntouchedFlagsKeepAndNoFlagIsRead : step atUnknown = .next (after (step atUnknown)) := rfl
theorem witness_PhaseMovesAsItsTransitionTableSays :
    (step atUnknown = .next (after (step atUnknown)) ∧ opTable.lookup (atUnknown.mem.read atUnknown.pc) = none) ∧
    (step atLda = .next (after (step atLda)) ∧ opTable.lookup (atLda.mem.read atLda.pc) ≠ none) ∧
    halted.phase = .halted ∧ atLda.phase = .fetching :=
  ⟨⟨rfl, by decide⟩, ⟨rfl, by decide⟩, by decide, by decide⟩

theorem witness_TransfersCopyAndSetFlags : Instr.tax.form.mode = .imp ∧ Instr.tya.form.mode = .imp := by decide
theorem witness_LoadsWriteTheirRegisterAndZNOnly :
    LoadsInto (.ldaIndY 0xFF) .a ∧ LoadsInto (.ldxAbsY 0xFFFF) .x ∧ LoadsInto (.ldyImm 0x00) .y :=
  ⟨.inl ⟨rfl, rfl⟩, .inr (.inl ⟨rfl, rfl⟩), .inr (.inr ⟨rfl, rfl⟩)⟩
theorem witness_StoresWriteOneCellOnly :
    StoresFrom (.staIndX 0xFF) .a ∧ StoresFrom (.stxAbs 0xFFFF) .x ∧ StoresFrom (.styZpX 0x00) .y :=
  ⟨.inl ⟨rfl, rfl⟩, .inr (.inl ⟨rfl, rfl⟩), .inr (.inr ⟨rfl, rfl⟩)⟩

/-- The two clauses: the byte stored is TAX, and the byte stored is no opcode. -/
theorem witness_NextFetchSeesTheStoredByte_tax :
    StoresFrom (.staAbs 0x0403) .a ∧
    exec (.staAbs 0x0403) (atStaNext 0xAA) = .next (after (exec (.staAbs 0x0403) (atStaNext 0xAA))) ∧
    effectiveAddr (atStaNext 0xAA) .abs (.word 0x0403) = some (after (exec (.staAbs 0x0403) (atStaNext 0xAA))).pc ∧
    StepEnabled (after (exec (.staAbs 0x0403) (atStaNext 0xAA))) ∧ getReg (atStaNext 0xAA) .a = 0xAA :=
  ⟨.inl ⟨rfl, rfl⟩, rfl, by decide, by decide, by decide⟩
theorem witness_NextFetchSeesTheStoredByte_unknown :
    exec (.staAbs 0x0403) (atStaNext 0x02) = .next (after (exec (.staAbs 0x0403) (atStaNext 0x02))) ∧
    effectiveAddr (atStaNext 0x02) .abs (.word 0x0403) = some (after (exec (.staAbs 0x0403) (atStaNext 0x02))).pc ∧
    StepEnabled (after (exec (.staAbs 0x0403) (atStaNext 0x02))) ∧ getReg (atStaNext 0x02) .a = 0x02 :=
  ⟨rfl, by decide, by decide, by decide⟩

theorem witness_CanonicalMemoriesWithTheSameContentsAreEqual :
    Memory.wf [(2, 0x01), (65535, 0x80)] ∧
    Memory.write (Memory.write [] 0xFFFF 0x80) 0x0002 0x01 = [(2, 0x01), (65535, 0x80)] := by decide

/-- The modes of the costs in `DirectAndZeroPageModesResolve`. -/
theorem witness_DirectAndZeroPageModesResolve :
    (Instr.ldaImm 0xFF).form.mode = .imm ∧ (Instr.staZp 0xFF).form.mode = .zp ∧ (Instr.styZpX 0xFF).form.mode = .zpx ∧
    (Instr.stxZpY 0xFF).form.mode = .zpy ∧ (Instr.ldaAbs 0xFFFF).form.mode = .abs := by decide

theorem witness_StepKeepsTheInvariant :
    Inv atLda ∧ step atLda = .next (after (step atLda)) ∧ Inv atUnknown ∧
    step atUnknown = .next (after (step atUnknown)) :=
  ⟨⟨by decide, by decide, by decide, by decide, by decide, by decide, by decide⟩, rfl,
    ⟨by decide, by decide, by decide, by decide, by decide, by decide, by decide⟩, rfl⟩

theorem witness_TransactionsKeepTheInvariant :
    Inv halted ∧ transactOn (.poke 0x0000 0xFF) halted = .ok (poke 0x0000 0xFF halted, .done) ∧
    transactOn (.run 0) halted = .ok ((run 0 halted).1, .ran (run 0 halted).2) :=
  ⟨⟨by decide, by decide, by decide, by decide, by decide, by decide, by decide⟩, by decide, by decide⟩

theorem witness_EveryReachableStateMeetsTheInvariant : Reachable (State.resetTo 0x0400) :=
  ⟨[.reset 0x0400], [.done], by decide⟩

theorem witness_StepKeepsTheAccounting :
    Accounted 1 atLda ∧ step atLda = .next (after (step atLda)) ∧ Accounted 1 atUnknown ∧
    step atUnknown = .next (after (step atUnknown)) :=
  ⟨⟨by decide, by decide⟩, rfl, ⟨by decide, by decide⟩, rfl⟩

theorem witness_RunReportsWhatItConsumed :
    (1 : Int) ≤ 1 ∧ atLda.phase ≠ .executing ∧ (run 1 atLda).1.phase = .fetching ∧ (run 1 atUnknown).1.phase = .halted := by
  decide
theorem witness_RunWithoutBudgetExecutesNothing : (0 : Int) ≤ 0 ∧ halted.phase = .halted := by decide
theorem witness_RunOfOneCycleExecutesOneStep : halted.phase ≠ .executing ∧ atLda.phase ≠ .executing := by decide
theorem witness_RunTakesAtMostHalfItsBudgetOfSteps : (((5 : Int) + 1) / 2).toNat ≤ 3 := by decide
theorem witness_CountersFitThirtyTwoBits :
    (1 : Int) ≤ 2 ^ 31 - 6 ∧ (2 : Int) ^ 31 - 6 ≤ 2 ^ 31 - 6 ∧ State.reset.phase ≠ .executing := by decide
theorem witness_RunOfZeroedMemoryHaltsAtOnce : (1 : Int) ≤ 1 := by decide
theorem witness_TransactionsMoveOnlyBetweenRuns :
    (atLda.phase = .fetching ∧ 0 < atLda.rem) ∧ (fetchOpcode atLda).phase = .executing ∧ ¬ RunInProgress State.reset ∧
    ∀ vector, Transaction.poke 0xFFFF 0x00 ≠ .reset vector := by
  refine ⟨by decide, by decide, by decide, fun vector h => ?_⟩
  cases h
theorem witness_PokeAndSnapshotDoWhatTheySay :
    (0xFFFF : Addr) ∈ [(0x0000 : Addr), 0xFFFF] ∧ ¬ RunInProgress State.reset ∧ ¬ RunInProgress halted := by decide

end Sys2Proof.Tests
end

section
/-! SUPPORT. What no instruction reads: from the same state with any other stack pointer and any other flags, an instruction
and a step do the same, and what they leave of the flags is told by the operation (spec/10_state.md R14, R19, R20). -/

namespace Sys2Proof.Machine

/-- The state with another stack pointer and other flags. -/
def State.withSpFlags (p : Byte) (f : Flags) (s : State) : State := { s with sp := p, flags := f }

/-- The flags an operation leaves, from those before it and the registers after it (R20): a load or a transfer applies
`SetZN` to its destination, a store nothing. -/
def flagsAfter (o : Operation) (t : State) (f : Flags) : Flags :=
  match Operation.dest? o with
  | some r => f.setZN (getReg t r)
  | none => f

/-- Whatever the operation, its flags are those before it or `SetZN` of some value. -/
theorem flagsAfter_cases (o : Operation) (t : State) :
    flagsAfter o t = id ∨ ∃ v, flagsAfter o t = Flags.setZN v := by
  unfold flagsAfter
  cases Operation.dest? o with
  | some r => exact .inr ⟨getReg t r, rfl⟩
  | none => exact .inl rfl

section
variable (p : Byte) (f : Flags)

theorem crossTick_withSpFlags (base indexed : Addr) (s : State) :
    crossTick base indexed (s.withSpFlags p f) = (crossTick base indexed s).withSpFlags p f := by
  unfold crossTick
  split <;> rfl

theorem addrAbsX_withSpFlags (abs16 : Addr) (s : State) :
    addrAbsX abs16 (s.withSpFlags p f) = ((addrAbsX abs16 s).1, (addrAbsX abs16 s).2.withSpFlags p f) :=
  congrArg (Prod.mk _) (crossTick_withSpFlags p f _ _ s)

theorem addrAbsY_withSpFlags (abs16 : Addr) (s : State) :
    addrAbsY abs16 (s.withSpFlags p f) = ((addrAbsY abs16 s).1, (addrAbsY abs16 s).2.withSpFlags p f) :=
  congrArg (Prod.mk _) (crossTick_withSpFlags p f _ _ s)

variable {p f}

theorem loadValue_withSpFlags (r : Reg) (v : Byte) (s : State) :
    complete (loadValue r v (s.withSpFlags p f)) =
      .next ((endInstr (loadValue r v s)).withSpFlags p (f.setZN v)) := by
  cases r <;> rfl

/-- A load whose address does not depend on the two, in the form its mode leaves it. -/
theorem loadFrom_withSpFlags {r : Reg} {q q' : Addr × State} (h : q' = (q.1, q.2.withSpFlags p f)) :
    complete (loadFrom r q') =
      .next ((endInstr (loadFrom r q)).withSpFlags p (f.setZN (q.2.mem.read q.1))) :=
  h ▸ loadValue_withSpFlags r _ (readByte q.1 q.2).2

/-- A store whose address does not depend on the two. -/
theorem storeTo_withSpFlags {r : Reg} {q q' : Addr × State} (h : q' = (q.1, q.2.withSpFlags p f)) :
    complete (storeTo r q') = .next ((endInstr (storeTo r q)).withSpFlags p f) := by
  subst h
  cases r <;> rfl

theorem transfer_withSpFlags (dst src : Reg) (s : State) :
    complete (transfer dst src (s.withSpFlags p f)) =
      .next ((endInstr (transfer dst src s)).withSpFlags p (f.setZN (getReg s src))) := by
  cases dst <;> cases src <;> rfl

end

/-- No instruction reads `SP` or a flag, none writes `SP`, and it writes the flags its operation says. Only the indexed
absolute modes branch on the state (`crossTick`); in every other mode the address is plainly the same. -/
theorem exec_withSpFlags {i : Instr} {s t : State} (h : exec i s = .next t) (p : Byte) (f : Flags) :
    exec i (s.withSpFlags p f) = .next (t.withSpFlags p (flagsAfter i.form.operation t f)) := by
  cases i with
  | ldaImm v | ldxImm v | ldyImm v =>
    cases h; exact loadValue_withSpFlags _ v (skipByte (startInstr s))
  | ldaZp _ | ldaZpX _ | ldaAbs _ | ldaIndX _ | ldaIndY _ | ldxZp _ | ldxZpY _ | ldxAbs _ | ldyZp _ | ldyZpX _
  | ldyAbs _ =>
    cases h; exact loadFrom_withSpFlags rfl
  | ldaAbsX w | ldyAbsX w =>
    cases h; exact loadFrom_withSpFlags (addrAbsX_withSpFlags p f w (skipWord (startInstr s)))
  | ldaAbsY w | ldxAbsY w =>
    cases h; exact loadFrom_withSpFlags (addrAbsY_withSpFlags p f w (skipWord (startInstr s)))
  | staZp _ | staZpX _ | staAbs _ | staIndX _ | staIndY _ | stxZp _ | stxZpY _ | stxAbs _ | styZp _ | styZpX _
  | styAbs _ =>
    cases h; exact storeTo_withSpFlags rfl
  | staAbsX w =>
    cases h; exact storeTo_withSpFlags (addrAbsX_withSpFlags p f w (skipWord (startInstr s)))
  | staAbsY w =>
    cases h; exact storeTo_withSpFlags (addrAbsY_withSpFlags p f w (skipWord (startInstr s)))
  | tax | tay | txa | tya =>
    cases h; exact transfer_withSpFlags _ _ (startInstr s)

/-- The flags after an instruction, from its operation and its destination's new value. -/
theorem exec_flags_eq {i : Instr} {s t : State} (h : exec i s = .next t) :
    t.flags = flagsAfter i.form.operation t s.flags := by
  have same : t = t.withSpFlags s.sp (flagsAfter i.form.operation t s.flags) :=
    Host.Outcome.next.inj (h.symm.trans (exec_withSpFlags h s.sp s.flags))
  exact congrArg State.flags same

/-- A step keeps `SP`, keeps the flags or applies `SetZN` of some value to them, and reads neither: with another `SP` and
other flags it does the same, those flags told by the same `w`. -/
theorem step_withSpFlags {s t : State} (h : step s = .next t) :
    t.sp = s.sp ∧ ∃ w : Flags → Flags, (w = id ∨ ∃ v, w = Flags.setZN v) ∧ t.flags = w s.flags ∧
      ∀ p f, step (s.withSpFlags p f) = .next (t.withSpFlags p (w f)) := by
  obtain ⟨he, ⟨i, hi, hx⟩ | ⟨hi, rfl⟩⟩ := step_cases h
  · refine ⟨(exec_sp_phase hx).1, flagsAfter i.form.operation t, flagsAfter_cases _ t, exec_flags_eq hx, fun p f => ?_⟩
    exact (step_instr (s := s.withSpFlags p f) he hi).trans (exec_withSpFlags hx p f)
  · exact ⟨takeUnknownOpcode_sp s, id, .inl rfl, takeUnknownOpcode_flags s,
      fun p f => step_unknown (s := s.withSpFlags p f) he hi⟩

end Sys2Proof.Machine
end

section
/-! SUPPORT. The statements about the state: the stack pointer, the flags, `SetZN` (spec/10_state.md). -/

namespace Sys2Proof.Claims

open Sys2Proof Sys2Proof.Machine

/-- The model's `SetZN` computes the flags the spec words by numbers (R20). -/
theorem setZN_eq_flagsOf (v : Byte) (f : Flags) : f.setZN v = flagsOf v f := by
  have hz : decide (v = 0x00) = decide (v.toNat = 0) := by simp [← BitVec.toNat_inj]
  have hn : v.getLsbD 7 = decide (128 ≤ v.toNat) := BitVec.msb_eq_decide v
  simp only [Flags.setZN, flagsOf, hz, hn]

/-- Settles O17: the step keeps SP and does the same with any other, its flags the same too. -/
theorem stackPointerIsNeitherReadNorWritten : Obligations.StackPointerIsNeitherReadNorWritten := by
  unfold Obligations.StackPointerIsNeitherReadNorWritten
  refine ⟨resetTo_sp, fun s t p h => ?_, fun s budget addr v => ⟨beginRun_sp budget s, poke_sp addr v s⟩⟩
  obtain ⟨hsp, w, -, hflags, hstep⟩ := step_withSpFlags h
  have same := hstep p s.flags
  rw [← hflags] at same
  exact ⟨hsp, same⟩

/-- Settles O18: whatever the flags, the step keeps them or sets Z and N alone, and leaves all else the same. -/
theorem untouchedFlagsKeepAndNoFlagIsRead : Obligations.UntouchedFlagsKeepAndNoFlagIsRead := by
  unfold Obligations.UntouchedFlagsKeepAndNoFlagIsRead
  refine ⟨resetTo_flags, fun s t f h => ?_, fun s budget addr v => ⟨beginRun_flags budget s, poke_flags addr v s⟩⟩
  obtain ⟨hsp, w, hw, hflags, hstep⟩ := step_withSpFlags h
  constructor
  · rw [hflags]
    rcases hw with rfl | ⟨v, rfl⟩ <;> exact ⟨rfl, rfl, rfl, rfl, rfl, rfl⟩
  · exact ⟨t.withSpFlags s.sp (w f), hstep s.sp f, congrArg (t.withSpFlags · (w f)) hsp.symm⟩

/-- Settles O29: the flags after an instruction are those its operation says, in the spec's wording of `SetZN`. -/
theorem zeroAndNegativeComeFromTheNewValue : Obligations.ZeroAndNegativeComeFromTheNewValue := by
  unfold Obligations.ZeroAndNegativeComeFromTheNewValue
  refine ⟨fun v s => congrArg (fun f => { s with flags := f }) (setZN_eq_flagsOf v s.flags), fun i s t h => ?_⟩
  have hflags := exec_flags_eq h
  generalize i.form.operation = o at hflags ⊢
  cases o with
  | lda | txa | tya | ldx | tax | ldy | tay => exact hflags.trans (setZN_eq_flagsOf _ _)
  | sta | stx | sty => exact hflags

end Sys2Proof.Claims
end

section
/-! SUPPORT. The byte primitives as whole states (spec/20_memory.md R50, R53, R55). -/

namespace Sys2Proof.Machine

theorem fetchByte_eq (s : State) :
    fetchByte s = (s.mem.read s.pc, { s with pc := s.pc + 1, rem := s.rem - 1, cyc := s.cyc + 1 }) := rfl

theorem readByte_eq (addr : Addr) (s : State) :
    readByte addr s = (s.mem.read addr, { s with rem := s.rem - 1, cyc := s.cyc + 1 }) := rfl

theorem writeByte_eq (addr : Addr) (v : Byte) (s : State) :
    writeByte addr v s = { s with mem := s.mem.write addr v, rem := s.rem - 1, cyc := s.cyc + 1 } := rfl

/-- `Memory.read_write` with its test the way round the statements have it: is the address read the one written? -/
theorem Memory.read_write_eq_ite (m : Memory) (addr b : Addr) (v : Byte) :
    (m.write addr v).read b = if b = addr then v else m.read b := by
  simp only [Memory.read_write, eq_comm (a := addr)]

end Sys2Proof.Machine
end

section
/-! SUPPORT. The statements about memory and its primitives (spec/20_memory.md). -/

namespace Sys2Proof.Claims

open Sys2Proof Sys2Proof.Machine

/-- Settles O31: each primitive is its access and one `charge`; the memory `WriteByte` leaves is the one written. -/
theorem bytePrimitivesChargeOneCycle : Obligations.BytePrimitivesChargeOneCycle := by
  unfold Obligations.BytePrimitivesChargeOneCycle
  intro s addr v
  exact ⟨fetchByte_eq s, readByte_eq addr s, s.mem.write addr v, writeByte_eq addr v s,
    fun b => Memory.read_write_eq_ite s.mem addr b v⟩

end Sys2Proof.Claims
end

section
/-! SUPPORT. The addresses and costs of the modes in the words of the statements (spec/40_addressing.md R91 to R104): the
model's address arithmetic is the spec's arithmetic of numbers, and an instruction charges its row of the cost table. -/

namespace Sys2Proof.Claims

open Sys2Proof Sys2Proof.Machine

/-- The zero-page sum is taken modulo 256 (R91). -/
theorem toNat_zpIndexed (zp8 r : Byte) : (zpIndexed zp8 r).toNat = (zp8.toNat + r.toNat) % 256 := by
  rw [zpIndexed, BitVec.toNat_setWidth, BitVec.toNat_add]
  omega

theorem zpIndexed_eq_zpSum (zp8 r : Byte) : zpIndexed zp8 r = zpSum zp8 r := by
  apply BitVec.eq_of_toNat_eq
  rw [toNat_zpIndexed, zpSum, BitVec.toNat_ofNat]
  omega

/-- An address in page zero is the sum with index 0. -/
theorem zeroExtend_eq_zpSum (zp8 : Byte) : zp8.zeroExtend 16 = zpSum zp8 0 := by
  have sum : zp8 + 0 = zp8 := BitVec.add_zero zp8
  rw [← zpIndexed_eq_zpSum, zpIndexed, sum]

/-- The absolute sum is taken modulo 65536, its index unsigned (R92). -/
theorem absIndexed_eq_absSum (base : Addr) (r : Byte) : absIndexed base r = absSum base r := by
  apply BitVec.eq_of_toNat_eq
  simp [absIndexed, absSum]

/-- Two bytes, low byte first, are the pointer at the address of the first (R46). -/
theorem pair_eq_pointer (s : State) (ptr : Addr) :
    pair (s.mem.read (ptr + 1)) (s.mem.read ptr) = pointer s ptr := by
  apply BitVec.eq_of_toNat_eq
  rw [toNat_pair, pointer, BitVec.toNat_ofNat]
  omega

/-- The page-boundary detector compares the high bytes (R93). -/
theorem pageCross_iff (base indexed : Addr) :
    pageCross base indexed = true ↔ base.toNat / 256 ≠ indexed.toNat / 256 := by
  have high : base >>> 8 = indexed >>> 8 ↔ base.toNat / 256 = indexed.toNat / 256 := by
    simp only [← BitVec.toNat_inj, BitVec.toNat_ushiftRight, Nat.shiftRight_eq_div_pow, Nat.reducePow]
  rw [pageCross, decide_eq_true_iff, BitVec.ushiftRight_xor_distrib]
  exact not_congr (BitVec.xor_eq_zero_iff.trans high)

/-- The page-crossing cycle is what the indexed absolute forms cost beyond 4 (R93, R104). -/
theorem crossTick_absIndexed (base : Addr) (r : Byte) (s : State) :
    crossTick base (absIndexed base r) s = charge (absCost base r - 4) s := by
  unfold crossTick absCost
  rw [← absIndexed_eq_absSum]
  by_cases h : base.toNat / 256 = (absIndexed base r).toNat / 256
  · simp [h, pageCross_iff, charge]
  · simp [h, pageCross_iff, tick]

/-- `FetchWord()` as a whole state (R51). -/
theorem fetchWord_eq (s : State) :
    fetchWord s = (pointer s s.pc, { s with pc := s.pc + 2, rem := s.rem - 2, cyc := s.cyc + 2 }) := by
  rw [← pair_eq_pointer]
  simp [fetchWord, fetchByte_eq, BitVec.add_assoc, Int.sub_sub, Int.add_assoc]

/-- An operand fetch and the add-cycle of an indexed mode (R96, R97). -/
theorem tick_fetchByte (s : State) :
    tick (fetchByte s).2 = { s with pc := s.pc + 1, rem := s.rem - 2, cyc := s.cyc + 2 } := by
  simp [tick, charge, fetchByte_eq, Int.sub_sub, Int.add_assoc]

/-- An instruction takes its row of the cost table from the budget and counts it (R104). -/
theorem exec_charges {i : Instr} {s t : State} (h : exec i s = .next t) :
    t.cyc = s.cyc + tableCost i s ∧ t.rem = s.rem - tableCost i s := by
  cases i with
  | ldaAbsX w | ldyAbsX w | staAbsX w =>
    cases h
    simp [addrAbsX, crossTick_absIndexed, tableCost, Instr.form]
    omega
  | ldaAbsY w | ldxAbsY w | staAbsY w =>
    cases h
    simp [addrAbsY, crossTick_absIndexed, tableCost, Instr.form]
    omega
  | _ =>
    cases h
    simp [tableCost, Instr.form, Int.add_assoc, Int.sub_sub]

end Sys2Proof.Claims
end

section
/-! SUPPORT. The statements about the addressing modes (spec/40_addressing.md). -/

namespace Sys2Proof.Claims

open Sys2Proof Sys2Proof.Machine

/-- Settles O38: `Resolve` by the fetch of the operand and the add-cycle, the total from the cost table. -/
theorem directAndZeroPageModesResolve : Obligations.DirectAndZeroPageModesResolve := by
  unfold Obligations.DirectAndZeroPageModesResolve
  refine ⟨fun s => ⟨?imm, ?zp, ?zpx, ?zpy, ?abs⟩, fun i s t h => ?cost⟩
  case imm => simp [resolve, fetchByte_eq]
  case zp => simp [resolve, asAddr, addrZp, fetchByte_eq, zeroExtend_eq_zpSum]
  case zpx => simp [resolve, asAddr, addrZpX, tick_fetchByte, zpIndexed_eq_zpSum]
  case zpy => simp [resolve, asAddr, addrZpY, tick_fetchByte, zpIndexed_eq_zpSum]
  case abs => simp [resolve, asAddr, addrAbs, fetchWord_eq]
  case cost =>
    obtain ⟨hcyc, -⟩ := exec_charges h
    refine ⟨?_, ?_, ?_, ?_, ?_⟩ <;> (intro hm; simpa [tableCost, hm] using hcyc)

/-- Settles O35: the model's sum is the sum of the numbers modulo 256, evaluated in the example. -/
theorem zeroPageIndexWrapsInPageZero : Obligations.ZeroPageIndexWrapsInPageZero := by
  unfold Obligations.ZeroPageIndexWrapsInPageZero
  refine ⟨fun zp8 r => ⟨toNat_zpIndexed zp8 r, ?_⟩, by decide⟩
  rw [toNat_zpIndexed]
  exact Nat.mod_lt _ (by decide)

end Sys2Proof.Claims
end

section
/-! SUPPORT. That a step answers where it is enabled, and where it leaves `PC` (spec/41_dispatch.md R111, R118). -/

namespace Sys2Proof.Machine

/-- Whichever the instruction and the state, it completes. -/
theorem exec_answers (i : Instr) (s : State) : ∃ t, exec i s = .next t := by
  cases i <;> exact ⟨_, rfl⟩

/-- Where a step is enabled it answers a next state: the instruction's at `PC`, or the halt. -/
theorem step_answers {s : State} (he : StepEnabled s) : ∃ t, step s = .next t := by
  cases hi : fetchInstr s with
  | some i =>
    rw [step_instr he hi]
    exact exec_answers i s
  | none => exact ⟨takeUnknownOpcode s, step_unknown he hi⟩

/-- `PC` after an instruction: past its bytes. A transfer has the opcode byte alone; in every other, the operand fetch moves
`PC` on from there, and the two sums are one. -/
theorem exec_pc {i : Instr} {s t : State} (h : exec i s = .next t) :
    t.pc = s.pc + BitVec.ofNat 16 (encode i).length := by
  cases i with
  | tax | tay | txa | tya =>
    cases h
    simp [encode]
  | _ =>
    cases h
    simp [encode, BitVec.add_assoc]

/-- A step that ends in `Halted` took the exception: an instruction ends at a boundary. -/
theorem step_halted {s t : State} (h : step s = .next t) (hh : t.phase = .halted) : t = takeUnknownOpcode s := by
  obtain ⟨-, ⟨i, -, hx⟩ | ⟨-, ht⟩⟩ := step_cases h
  · obtain ⟨-, hphase⟩ := exec_sp_phase hx
    rw [hphase] at hh
    cases hh
  · exact ht

end Sys2Proof.Machine
end

section
/-! SUPPORT. The statements about the dispatch of a step (spec/41_dispatch.md). -/

namespace Sys2Proof.Claims

open Sys2Proof Sys2Proof.Machine

/-- Settles O8: a step that answers was enabled, by what a step can do; an enabled one answers, an instruction or the halt. -/
theorem stepAnswersExactlyWhereEnabled : Obligations.StepAnswersExactlyWhereEnabled := by
  unfold Obligations.StepAnswersExactlyWhereEnabled
  intro s
  constructor
  · rintro ⟨t, h⟩
    exact (step_cases h).1
  · exact step_answers

/-- Settles O16: by the length for an instruction, by the opcode byte for the halt; the host's operations by their laws. -/
theorem programCounterAdvancesByTheLength : Obligations.ProgramCounterAdvancesByTheLength := by
  unfold Obligations.ProgramCounterAdvancesByTheLength
  refine ⟨fun i s t h => exec_pc h, fun s t h hh => ?_, fun s budget addr v => ⟨beginRun_pc budget s, poke_pc addr v s⟩,
    fun _ vector => resetTo_pc vector⟩
  rw [step_halted h hh, takeUnknownOpcode_pc]

end Sys2Proof.Claims
end

section
/-! SUPPORT. What an instruction leaves unchanged, told by its operation (spec/42_load.md R130, spec/43_store.md R150,
spec/44_transfer.md R170). -/

namespace Sys2Proof.Machine

/-- An instruction keeps every general register but the destination of its operation. -/
theorem exec_getReg_other {i : Instr} {s t : State} {q : Reg} (h : exec i s = .next t)
    (hq : Operation.dest? i.form.operation ≠ some q) : getReg t q = getReg s q := by
  cases i with
  | staZp _ | staZpX _ | staAbs _ | staAbsX _ | staAbsY _ | staIndX _ | staIndY _ | stxZp _ | stxZpY _ | stxAbs _
  | styZp _ | styZpX _ | styAbs _ =>
    cases h
    simp
  | _ =>
    cases h
    simp only [Instr.form, Operation.dest?, ne_eq, Option.some.injEq] at hq
    simp [hq]

/-- An instruction whose operation is not a store keeps memory. -/
theorem exec_mem_of_stored?_eq_none {i : Instr} {s t : State} (h : exec i s = .next t)
    (hi : Operation.stored? i.form.operation = none) : t.mem = s.mem := by
  cases i with
  | staZp _ | staZpX _ | staAbs _ | staAbsX _ | staAbsY _ | staIndX _ | staIndY _ | stxZp _ | stxZpY _ | stxAbs _
  | styZp _ | styZpX _ | styAbs _ => cases hi
  | _ =>
    cases h
    simp

end Sys2Proof.Machine
end

section
/-! SUPPORT. The statement about the load family as a whole (spec/42_load.md R130). -/

namespace Sys2Proof.Claims

open Sys2Proof Sys2Proof.Machine

/-- A load into a register has it as its destination and stores none. -/
theorem LoadsInto.dest_stored {i : Instr} {r : Reg} (hi : LoadsInto i r) :
    Operation.dest? i.form.operation = some r ∧ Operation.stored? i.form.operation = none := by
  obtain ⟨ho, rfl⟩ | ⟨ho, rfl⟩ | ⟨ho, rfl⟩ := hi <;> rw [ho] <;> exact ⟨rfl, rfl⟩

/-- After a load its register holds the loaded value: the operand byte, or the cell its mode's address names. Only the
indexed absolute modes branch before their read (`crossTick`), on a cycle that leaves memory; elsewhere the two compute alike. -/
theorem LoadsInto.loadedValue_eq {i : Instr} {r : Reg} {s t : State} (hi : LoadsInto i r) (h : exec i s = .next t) :
    loadedValue i s = some (getReg t r) := by
  obtain ⟨hdest, -⟩ := hi.dest_stored
  cases i with
  | ldaAbsX w | ldaAbsY w | ldxAbsY w | ldyAbsX w =>
    cases hdest; cases h
    simp [loadedValue, Instr.form, effectiveAddr]
  | ldaImm _ | ldaZp _ | ldaZpX _ | ldaAbs _ | ldaIndX _ | ldaIndY _ | ldxImm _ | ldxZp _ | ldxZpY _ | ldxAbs _
  | ldyImm _ | ldyZp _ | ldyZpX _ | ldyAbs _ =>
    cases hdest; cases h
    rfl
  | _ => obtain ⟨ho, -⟩ | ⟨ho, -⟩ | ⟨ho, -⟩ := hi <;> cases ho

/-- Settles O27: the value and the kept registers and memory by the laws above, Z and N by the flags of the operation. -/
theorem loadsWriteTheirRegisterAndZNOnly : Obligations.LoadsWriteTheirRegisterAndZNOnly := by
  unfold Obligations.LoadsWriteTheirRegisterAndZNOnly
  intro i r s hi
  obtain ⟨t, h⟩ := exec_answers i s
  obtain ⟨hdest, hstored⟩ := hi.dest_stored
  obtain ⟨hsp, hphase⟩ := exec_sp_phase h
  have hflags : t.flags = flagsOf (getReg t r) s.flags := by
    rw [exec_flags_eq h, flagsAfter, hdest]
    exact setZN_eq_flagsOf _ _
  have hregs : ∀ q, q ≠ r → getReg t q = getReg s q := fun q hq =>
    exec_getReg_other h (by rw [hdest]; exact fun e => hq (Option.some.inj e).symm)
  have hmem : t.mem = s.mem := exec_mem_of_stored?_eq_none h hstored
  exact ⟨getReg t r, t, hi.loadedValue_eq h, h, rfl, hflags, hphase, hregs, hsp, fun addr => congrArg (·.read addr) hmem⟩

end Sys2Proof.Claims
end

section
/-! SUPPORT. What a store writes (spec/43_store.md R150). -/

namespace Sys2Proof.Machine

/-- A store leaves memory with its register written at its effective address, both taken in the state before it. The address
is resolved after the operand fetch and the mode's internal cycles, and none of these changes a register or a cell. -/
theorem exec_mem_of_stored?_eq_some {i : Instr} {r : Reg} {s t : State} (h : exec i s = .next t)
    (hi : Operation.stored? i.form.operation = some r) :
    ∃ ea, effectiveAddr s i.form.mode i.form.operand = some ea ∧ t.mem = s.mem.write ea (getReg s r) := by
  cases i with
  | staZp _ | staZpX _ | staAbs _ | staAbsX _ | staAbsY _ | staIndX _ | staIndY _ | stxZp _ | stxZpY _ | stxAbs _
  | styZp _ | styZpX _ | styAbs _ =>
    cases hi; cases h
    refine ⟨_, rfl, ?_⟩
    simp
  | _ => cases hi

end Sys2Proof.Machine
end

section
/-! SUPPORT. The statement about the store family as a whole (spec/43_store.md R150). -/

namespace Sys2Proof.Claims

open Sys2Proof Sys2Proof.Machine

/-- A store of a register has it as the register it stores, and no destination. -/
theorem StoresFrom.stored_dest {i : Instr} {r : Reg} (hi : StoresFrom i r) :
    Operation.stored? i.form.operation = some r ∧ Operation.dest? i.form.operation = none := by
  obtain ⟨ho, rfl⟩ | ⟨ho, rfl⟩ | ⟨ho, rfl⟩ := hi <;> rw [ho] <;> exact ⟨rfl, rfl⟩

/-- Settles O28: memory is the one write at the effective address; registers and flags are kept, for want of a destination. -/
theorem storesWriteOneCellOnly : Obligations.StoresWriteOneCellOnly := by
  unfold Obligations.StoresWriteOneCellOnly
  intro i r s hi
  obtain ⟨t, h⟩ := exec_answers i s
  obtain ⟨hstored, hdest⟩ := hi.stored_dest
  obtain ⟨ea, hea, hmem⟩ := exec_mem_of_stored?_eq_some h hstored
  obtain ⟨hsp, hphase⟩ := exec_sp_phase h
  have hcell : t.mem.read ea = getReg s r := by rw [hmem, Memory.read_write_same]
  have hothers : ∀ addr, addr ≠ ea → t.mem.read addr = s.mem.read addr := fun addr ha => by
    rw [hmem, Memory.read_write_other s.mem _ ha.symm]
  have hregs : ∀ q, getReg t q = getReg s q := fun q => exec_getReg_other h (by rw [hdest]; exact nofun)
  have hflags : t.flags = s.flags := by rw [exec_flags_eq h, flagsAfter, hdest]
  exact ⟨ea, t, hea, h, hcell, hothers, hregs, hsp, hflags, hphase⟩

end Sys2Proof.Claims
end

section
/-! SUPPORT. A transfer as a whole next state (spec/44_transfer.md R170): its two cycles, then the end it shares with every
load, the value into the register and `SetZN` of it (spec/42_load.md R130). -/

namespace Sys2Proof.Claims

open Sys2Proof Sys2Proof.Machine

theorem loadValue_a_eq_intoA (v : Byte) (s : State) : loadValue .a v s = intoA v s :=
  congrArg (fun f => { s with a := v, flags := f }) (setZN_eq_flagsOf v s.flags)

theorem loadValue_x_eq_intoX (v : Byte) (s : State) : loadValue .x v s = intoX v s :=
  congrArg (fun f => { s with x := v, flags := f }) (setZN_eq_flagsOf v s.flags)

theorem loadValue_y_eq_intoY (v : Byte) (s : State) : loadValue .y v s = intoY v s :=
  congrArg (fun f => { s with y := v, flags := f }) (setZN_eq_flagsOf v s.flags)

/-- Ending an instruction sets the phase alone, which a loaded value neither reads nor writes. -/
theorem endInstr_loadValue (r : Reg) (v : Byte) (s : State) :
    endInstr (loadValue r v s) = loadValue r v (endInstr s) := by
  cases r <;> rfl

/-- The opcode fetch and one internal cycle are an instruction of one byte and two cycles. -/
theorem endInstr_tick_startInstr (s : State) : endInstr (tick (startInstr s)) = ended 1 2 s := by
  apply State.ext_fields <;> simp [ended, Int.sub_sub, Int.add_assoc]

/-- A transfer copies the source as it was before the instruction: no cycle of it changes a register. -/
theorem complete_transfer (dst src : Reg) (s : State) :
    complete (transfer dst src (startInstr s)) = .next (loadValue dst (getReg s src) (ended 1 2 s)) := by
  have hsrc : getReg (tick (startInstr s)) src = getReg s src := by simp
  have hend : transfer dst src (startInstr s) = loadValue dst (getReg s src) (tick (startInstr s)) := by
    rw [transfer, hsrc, loadValue]
  rw [complete, hend, endInstr_loadValue, endInstr_tick_startInstr]

/-- The transfers are all the instructions of mode `IMP`. -/
theorem transfer_of_mode_imp {i : Instr} (h : i.form.mode = .imp) : i = .tax ∨ i = .tay ∨ i = .txa ∨ i = .tya := by
  cases i with
  | tax | tay | txa | tya => simp
  | _ => cases h

end Sys2Proof.Claims
end

section
/-! SUPPORT. The statement about the transfers (spec/44_transfer.md R170 to R174). -/

namespace Sys2Proof.Claims

open Sys2Proof Sys2Proof.Machine

/-- Settles O26: each is the one shared transfer between its two registers; of mode `IMP` there are no others. -/
theorem transfersCopyAndSetFlags : Obligations.TransfersCopyAndSetFlags := by
  unfold Obligations.TransfersCopyAndSetFlags
  refine fun s => ⟨?tax, ?tay, ?txa, ?tya, fun i hi => ?imp⟩
  case tax => rw [← loadValue_x_eq_intoX]; exact complete_transfer .x .a s
  case tay => rw [← loadValue_y_eq_intoY]; exact complete_transfer .y .a s
  case txa => rw [← loadValue_a_eq_intoA]; exact complete_transfer .a .x s
  case tya => rw [← loadValue_a_eq_intoA]; exact complete_transfer .a .y s
  case imp =>
    have htransfer := transfer_of_mode_imp hi
    refine ⟨htransfer, ?_⟩
    obtain rfl | rfl | rfl | rfl := htransfer <;> exact ⟨rfl, rfl⟩

end Sys2Proof.Claims
end

section
/-! SUPPORT. Decoding as an equivalence (spec/30_encoding.md R70 to R75): bytes decode to an instruction exactly when an
opcode byte of its row comes first and the bytes of its operand follow. -/

namespace Sys2Proof

/-- The default table meets the constraints on a table (R75). -/
theorem opTable_valid : OpTable.Valid opTable := by decide

/-- In a valid table an operation and mode have one opcode byte. -/
theorem OpTable.Valid.opcode_unique {t : OpTable} (ht : t.Valid) {op op' : Byte} {p : Operation × Mode}
    (h : t.lookup op = some p) (h' : t.lookup op' = some p) : op = op' := by
  obtain ⟨-, hpairs, -, -⟩ := ht
  have nodup : (t.map fun r => (r.operation, r.mode)).Nodup := List.pairwise_map.2 hpairs
  exact congrArg OpRow.opcode
    (List.inj_on_of_nodup_map nodup (OpTable.lookup_mem h) (OpTable.lookup_mem h') rfl)

/-- The bytes an operand is written as, low byte first (R74). -/
def Operand.bytes : Operand → List Byte
  | .none => []
  | .byte b => [b]
  | .word w => [lo8 w, hi8 w]

/-- What a format takes as its operand stood at the head of the bytes. -/
theorem Format.bytes_of_takeOperand {f : Format} {bs rest : List Byte} {p : Operand}
    (h : f.takeOperand bs = some (p, rest)) : bs = p.bytes ++ rest := by
  cases f with
  | f1 => cases h; rfl
  | f2i | f2z =>
    cases bs with
    | nil => cases h
    | cons b bs => cases h; rfl
  | f3 =>
    match bs with
    | [] | [_] => cases h
    | l :: h' :: bs =>
      cases h
      simp [Operand.bytes]

/-- An instruction's format takes its operand from the operand's bytes. -/
theorem Instr.takeOperand_bytes (i : Instr) (rest : List Byte) :
    i.form.mode.format.takeOperand (i.form.operand.bytes ++ rest) = some (i.form.operand, rest) := by
  cases i <;> simp [Instr.form, Mode.format, Operand.bytes, Format.takeOperand]

/-- An instruction is encoded as an opcode byte of its row and the bytes of its operand (R71, R74). -/
theorem encode_eq (i : Instr) :
    ∃ op, opTable.lookup op = some (i.form.operation, i.form.mode) ∧ encode i = op :: i.form.operand.bytes := by
  cases i <;> exact ⟨_, rfl, rfl⟩

/-- What bytes decode to, said by the table and the operand alone. -/
theorem decode_eq_ok {bytes rest : List Byte} {i : Instr} :
    decode bytes = .ok (i, rest) ↔ ∃ op bs, bytes = op :: bs ∧
      opTable.lookup op = some (i.form.operation, i.form.mode) ∧
      i.form.mode.format.takeOperand bs = some (i.form.operand, rest) := by
  constructor
  · intro h
    cases bytes with
    | nil => cases h
    | cons op bs =>
      simp only [decode] at h
      split at h
      · cases h
      next operation mode hrow =>
      split at h
      · cases h
      next operand rest' htake =>
      split at h
      · cases h
      next j hform =>
      cases h
      have form := Form.form_of_instr? hform
      exact ⟨op, bs, rfl, by rw [form]; exact hrow, by rw [form]; exact htake⟩
  · rintro ⟨op, bs, rfl, hrow, htake⟩
    have hform : Form.instr? ⟨i.form.operation, i.form.mode, i.form.operand⟩ = some i := Form.instr?_form i
    simp only [decode, hrow, htake, hform]

/-- The decoder inverts the encoder, whatever bytes follow. -/
theorem decode_encode (i : Instr) (rest : List Byte) : decode (encode i ++ rest) = .ok (i, rest) := by
  obtain ⟨op, hrow, henc⟩ := encode_eq i
  exact decode_eq_ok.2 ⟨op, _, congrArg (· ++ rest) henc, hrow, i.takeOperand_bytes rest⟩

/-- The encoder inverts the decoder: the opcode byte is the one byte of its row, the operand bytes those taken. -/
theorem eq_encode_of_decode {bytes rest : List Byte} {i : Instr} (h : decode bytes = .ok (i, rest)) :
    bytes = encode i ++ rest := by
  obtain ⟨op, bs, rfl, hrow, htake⟩ := decode_eq_ok.1 h
  obtain ⟨op', hrow', henc⟩ := encode_eq i
  rw [henc, opTable_valid.opcode_unique hrow hrow', Format.bytes_of_takeOperand htake, List.cons_append]

/-- The decoder answers 'unknown opcode' exactly for a byte without an entry (R79). -/
theorem decode_eq_unknownOpcode {op : Byte} {bs : List Byte} :
    decode (op :: bs) = .error (.unknownOpcode op) ↔ opTable.lookup op = none := by
  constructor
  · intro h
    simp only [decode] at h
    split at h
    · assumption
    split at h
    · cases h
    split at h <;> cases h
  · intro h
    simp only [decode, h]

end Sys2Proof
end

section
/-! SUPPORT. The statements about the encoding (spec/30_encoding.md). -/

namespace Sys2Proof.Claims

open Sys2Proof Sys2Proof.Machine

/-- The bytes without an entry in the default table are those outside the statements' list: the list is a reordering of the
table's opcode column (R78). -/
theorem lookup_opTable_eq_none {op : Byte} : opTable.lookup op = none ↔ op ∉ opcodeBytes := by
  have reordered : (opTable.map OpRow.opcode).Perm opcodeBytes := by decide
  rw [OpTable.lookup_none, ← reordered.mem_iff]
  simp only [List.mem_map, not_exists, not_and, ne_eq]

/-- Settles O1: the decoder finds the opcode's row and takes the operand back from its bytes. -/
theorem decodingAnEncodedInstructionGivesItBack : Obligations.DecodingAnEncodedInstructionGivesItBack := by
  unfold Obligations.DecodingAnEncodedInstructionGivesItBack
  exact decode_encode

/-- Settles O2: the row found has no other opcode byte, and the operand taken no other bytes. -/
theorem decodedBytesAreTheEncodingOfTheInstruction : Obligations.DecodedBytesAreTheEncodingOfTheInstruction := by
  unfold Obligations.DecodedBytesAreTheEncodingOfTheInstruction
  intro bytes i rest h
  exact eq_encode_of_decode h

/-- Settles O3: the bytes written out are the encodings, so they decode back. -/
theorem wordsWrittenOutFromTheSpecDecode : Obligations.WordsWrittenOutFromTheSpecDecode := by
  unfold Obligations.WordsWrittenOutFromTheSpecDecode
  exact ⟨decode_encode (.ldaImm 0x80) [], decode_encode (.ldaAbsX 0x7471) [], decode_encode (.ldaIndY 0x20) [],
    decode_encode (.ldxZpY 0xF0) [], decode_encode (.ldyAbs 0x1234) [], decode_encode (.staAbsX 0x70FF) [],
    decode_encode (.stxZpY 0x80) [], decode_encode (.styAbs 0x4000) [], decode_encode .txa []⟩

/-- Settles O4: the decoder refuses by the table, whose opcode column is the list. -/
theorem unrecognisedOpcodesAreExactlyTheOtherBytes : Obligations.UnrecognisedOpcodesAreExactlyTheOtherBytes := by
  unfold Obligations.UnrecognisedOpcodesAreExactlyTheOtherBytes
  exact ⟨fun op rest => decode_eq_unknownOpcode.trans lookup_opTable_eq_none, by decide⟩

end Sys2Proof.Claims
end

section
/-! SUPPORT. What a step does to the invariant and to the accounting of its run (spec/10_state.md, spec/41_dispatch.md R116,
R119): an instruction costs 2 to 6 cycles, the halt leaves no budget. -/

namespace Sys2Proof.Claims

open Sys2Proof Sys2Proof.Machine

/-- An indexed absolute instruction costs 4 cycles or 5. -/
theorem absCost_bounds (base : Addr) (r : Byte) : 4 ≤ absCost base r ∧ absCost base r ≤ 5 := by
  unfold absCost
  split <;> decide

/-- The totals of the cost table are between 2 and 6 (R104). -/
theorem tableCost_bounds (i : Instr) (s : State) : 2 ≤ tableCost i s ∧ tableCost i s ≤ 6 := by
  cases i with
  | ldaAbsX w | ldaAbsY w | ldxAbsY w | ldyAbsX w | staAbsX w | staAbsY w =>
    obtain ⟨hlow, hhigh⟩ := absCost_bounds w _
    exact ⟨Int.le_trans (by decide) hlow, Int.le_trans hhigh (by decide)⟩
  | _ => simp [tableCost, Instr.form]

end Sys2Proof.Claims

namespace Sys2Proof.Machine

/-- No byte is zero and has its top bit set, so Z and N are not both set of it (R20). -/
theorem Flags.not_zero_and_negative_setZN (v : Byte) (f : Flags) :
    ¬ ((f.setZN v).z = true ∧ (f.setZN v).n = true) := by
  rintro ⟨hz, hn⟩
  rw [Flags.setZN_z, decide_eq_true_iff] at hz
  subst hz
  cases hn

/-- Every instruction keeps the invariant: memory by its one write, the flags by `SetZN`. -/
theorem Inv.exec {i : Instr} {s t : State} (hs : Inv s) (h : exec i s = .next t) : Inv t := by
  obtain ⟨hsp, hphase⟩ := exec_sp_phase h
  obtain ⟨hcyc, -⟩ := exec_spends h
  have hflags := exec_flags h
  refine ⟨?mem, ?boundary, hsp.trans hs.sp_reset, ?untouched, ?zn, ?halted, ?cyc⟩
  case mem =>
    obtain hm | ⟨ea, v, hm⟩ := exec_mem h <;> rw [hm]
    · exact hs.mem_wf
    · exact Memory.write_wf ea v hs.mem_wf
  case boundary => rw [hphase]; decide
  case untouched =>
    obtain hf | ⟨v, hf⟩ := hflags <;> rw [hf]
    · exact hs.untouched
    · exact hs.untouched
  case zn =>
    obtain hf | ⟨v, hf⟩ := hflags <;> rw [hf]
    · exact hs.not_zero_and_negative
    · exact Flags.not_zero_and_negative_setZN v s.flags
  case halted => intro hh; rw [hphase] at hh; cases hh
  case cyc => exact Int.le_trans hs.cyc_nonneg (Int.le_of_lt hcyc)

/-- The halt touches none of what the invariant is about but the phase and the budget, which it sets to 0. -/
theorem Inv.takeUnknownOpcode {s : State} (hs : Inv s) : Inv (takeUnknownOpcode s) where
  mem_wf := hs.mem_wf
  boundary := by simp
  sp_reset := hs.sp_reset
  untouched := hs.untouched
  not_zero_and_negative := hs.not_zero_and_negative
  halted_spent _ := rfl
  cyc_nonneg := hs.cyc_nonneg

/-- Every step keeps the invariant. -/
theorem Inv.step {s t : State} (hs : Inv s) (h : step s = .next t) : Inv t := by
  obtain ⟨-, ⟨i, -, hx⟩ | ⟨-, rfl⟩⟩ := step_cases h
  · exact hs.exec hx
  · exact hs.takeUnknownOpcode

/-- Every step keeps the accounting: an instruction moves its cost, at most 6, from a budget that is at least 1; the halt
discards that budget, so that less than all of it is counted. -/
theorem Accounted.step {budget : Int} {s t : State} (hs : Accounted budget s) (h : step s = .next t) :
    Accounted budget t := by
  obtain ⟨⟨hfetching, hrem⟩, hcase⟩ := step_cases h
  obtain ⟨hsum, -⟩ := hs.at_boundary hfetching
  rcases hcase with ⟨i, -, hx⟩ | ⟨-, rfl⟩
  · obtain ⟨-, hphase⟩ := exec_sp_phase hx
    obtain ⟨hcyc, hspent⟩ := Claims.exec_charges hx
    obtain ⟨-, hcost⟩ := Claims.tableCost_bounds i s
    exact ⟨fun _ => by omega, fun hh => by rw [hphase] at hh; cases hh⟩
  · refine ⟨fun hf => ?_, fun _ => ⟨takeUnknownOpcode_rem s, ?_⟩⟩
    · rw [takeUnknownOpcode_phase] at hf; cases hf
    · rw [takeUnknownOpcode_cyc]; omega

end Sys2Proof.Machine
end

section
/-! SUPPORT. How long a run goes on (spec/41_dispatch.md R110, R116, R120): each step takes two cycles or halts, so half the
budget of steps, rounded up, is enough, and more change nothing. -/

namespace Sys2Proof.Machine

/-- A step takes at least two cycles of the budget, or it halts (R120). -/
theorem step_spends_two {s t : State} (h : step s = .next t) : t.rem ≤ s.rem - 2 ∨ t.phase = .halted := by
  obtain ⟨-, ⟨i, -, hx⟩ | ⟨-, rfl⟩⟩ := step_cases h
  · obtain ⟨-, hspent⟩ := Claims.exec_charges hx
    obtain ⟨hcost, -⟩ := Claims.tableCost_bounds i s
    exact .inl (by omega)
  · exact .inr (takeUnknownOpcode_phase s)

/-- In `Halted` no step is enabled. -/
theorem not_stepEnabled_of_halted {s : State} (h : s.phase = .halted) : ¬ StepEnabled s := by
  rintro ⟨hf, -⟩
  rw [h] at hf
  cases hf

/-- The loop is over after as many steps as half of what is left of the budget. -/
theorem not_stepEnabled_runLoop (n : Nat) :
    ∀ s : State, s.rem ≤ 2 * n → ¬ StepEnabled (runLoop n s) := by
  induction n with
  | zero =>
    rintro s hrem ⟨-, hpos⟩
    simp only [runLoop] at hpos
    omega
  | succ n ih =>
    intro s hrem
    by_cases he : StepEnabled s
    · obtain ⟨t, h⟩ := step_answers he
      rw [runLoop_enabled n h]
      rcases step_spends_two h with hspent | hhalted
      · exact ih t (by omega)
      · have hover := not_stepEnabled_of_halted hhalted
        rwa [runLoop_disabled n hover]
    · rwa [runLoop_disabled (n + 1) he]

/-- A loop of `n + k` steps is one of `n` steps and then one of `k`. -/
theorem runLoop_add (n k : Nat) : ∀ s : State, runLoop (n + k) s = runLoop k (runLoop n s) := by
  induction n with
  | zero => intro s; rw [Nat.zero_add]; rfl
  | succ n ih =>
    intro s
    rw [Nat.succ_add]
    by_cases he : StepEnabled s
    · obtain ⟨t, h⟩ := step_answers he
      rw [runLoop_enabled _ h, runLoop_enabled _ h, ih]
    · rw [runLoop_disabled _ he, runLoop_disabled _ he, runLoop_disabled _ he]

/-- Once the loop is over, allowing it more steps changes nothing. -/
theorem runLoop_eq_of_le {n m : Nat} (hnm : n ≤ m) {s : State} (h : ¬ StepEnabled (runLoop n s)) :
    runLoop m s = runLoop n s := by
  obtain ⟨k, rfl⟩ := Nat.exists_eq_add_of_le hnm
  rw [runLoop_add, runLoop_disabled k h]

/-- After a run no step is enabled: its loop is allowed the whole budget of steps. -/
theorem not_stepEnabled_run (budget : Int) (s : State) : ¬ StepEnabled (run budget s).1 :=
  not_stepEnabled_runLoop budget.toNat (beginRun budget s) (by rw [beginRun_rem]; omega)

/-- Starting a run clears a halt, so that it never leaves the engine in `Halted`. -/
theorem beginRun_phase_eq {s : State} (budget : Int) (h : s.phase ≠ .executing) :
    (beginRun budget s).phase = .fetching := by
  rw [beginRun_phase]
  cases hs : s.phase with
  | fetching => rfl
  | halted => rfl
  | executing => exact absurd hs h

end Sys2Proof.Machine
end

section
/-! SUPPORT. What the host's transactions do to the invariant (spec/00_scope.md R8, spec/10_state.md R31). -/

namespace Sys2Proof.Machine

theorem Inv.resetTo (vector : Addr) : Inv (State.resetTo vector) where
  mem_wf := Memory.nil_wf
  boundary := by simp
  sp_reset := rfl
  untouched := by simp
  not_zero_and_negative := by simp
  halted_spent := by simp
  cyc_nonneg := by simp

theorem not_runInProgress_resetTo (vector : Addr) : ¬ RunInProgress (State.resetTo vector) := by
  simp [RunInProgress]

theorem Inv.poke {s : State} (hs : Inv s) (addr : Addr) (v : Byte) : Inv (poke addr v s) :=
  { hs with mem_wf := Memory.write_wf addr v hs.mem_wf }

theorem Inv.beginRun {s : State} (hs : Inv s) (budget : Int) : Inv (beginRun budget s) where
  mem_wf := hs.mem_wf
  boundary := by rw [beginRun_phase_eq budget hs.boundary]; decide
  sp_reset := hs.sp_reset
  untouched := hs.untouched
  not_zero_and_negative := hs.not_zero_and_negative
  halted_spent h := by rw [beginRun_phase_eq budget hs.boundary] at h; cases h
  cyc_nonneg := Int.le_refl 0

/-- A run keeps the invariant: its start does, and every step does. -/
theorem Inv.run {s : State} (hs : Inv s) (budget : Int) : Inv (run budget s).1 :=
  runLoop_keeps (fun _ _ => Inv.step) budget.toNat _ (hs.beginRun budget)

/-- Between steps a run is in progress exactly where a step is enabled. -/
theorem Inv.runInProgress_iff {s : State} (hs : Inv s) : RunInProgress s ↔ StepEnabled s :=
  or_iff_left hs.boundary

/-- An accepted transaction keeps the invariant and leaves no run in progress: of the four only a run takes steps, and it
goes on until none is enabled. -/
theorem Inv.transactOn {tx : Transaction} {s t : State} {reply : Reply} (hs : Inv s)
    (h : transactOn tx s = .ok (t, reply)) : Inv t ∧ ¬ RunInProgress t := by
  obtain ⟨hidle, hcase⟩ := transactOn_cases h
  obtain ⟨vector, -, rfl⟩ | ⟨addr, v, -, rfl⟩ | ⟨budget, -, -, rfl⟩ | ⟨cells, -, rfl⟩ := hcase
  · exact ⟨Inv.resetTo vector, not_runInProgress_resetTo vector⟩
  · exact ⟨hs.poke addr v, hidle⟩
  · have hinv := hs.run budget
    exact ⟨hinv, mt hinv.runInProgress_iff.1 (not_stepEnabled_run budget s)⟩
  · exact ⟨hs, hidle⟩

/-- Where no run is in progress every transaction is accepted: the counters are integers, so no budget is too large. -/
theorem transactOn_accepts {s : State} (h : ¬ RunInProgress s) (tx : Transaction) :
    ∃ t reply, transactOn tx s = .ok (t, reply) := by
  unfold transactOn
  rw [if_neg h]
  cases tx <;> exact ⟨_, _, rfl⟩

/-- What a machine is in between two transactions: nothing before the first reset, then a state with the invariant and no
run in progress. -/
def Between (m : Option State) : Prop := ∀ s, m = some s → Inv s ∧ ¬ RunInProgress s

theorem between_none : Between none := by
  rintro s ⟨⟩

theorem Between.transact {tx : Transaction} {m : Option State} {s : State} {reply : Reply} (hm : Between m)
    (h : transact tx m = .ok (s, reply)) : Between (some s) := by
  rintro _ ⟨⟩
  cases m with
  | some r =>
    obtain ⟨hinv, -⟩ := hm r rfl
    exact hinv.transactOn h
  | none =>
    cases tx with
    | reset vector => cases h; exact ⟨Inv.resetTo vector, not_runInProgress_resetTo vector⟩
    | poke _ _ | run _ | snapshot _ => cases h

/-- What every transaction keeps, a session keeps. -/
theorem Between.session {txs : List Transaction} :
    ∀ {m m' : Option State} {replies : List Reply}, Between m → session txs m = .ok (m', replies) → Between m' := by
  induction txs with
  | nil => intro m m' replies hm h; cases h; exact hm
  | cons tx rest ih =>
    intro m m' replies hm h
    simp only [Machine.session] at h
    split at h
    · cases h
    next s reply htx =>
    split at h
    · cases h
    next m'' replies' hrest =>
    cases h
    exact ih (hm.transact htx) hrest

end Sys2Proof.Machine
end

section
/-! SUPPORT. The statements about what every step, transaction and session keeps. -/

namespace Sys2Proof.Claims

open Sys2Proof Sys2Proof.Machine

/-- Settles O43: by what a step can do, an instruction or the halt. -/
theorem stepKeepsTheInvariant : Obligations.StepKeepsTheInvariant := by
  unfold Obligations.StepKeepsTheInvariant
  intro s t hs h
  exact hs.step h

/-- Settles O44: by the four transactions, a run by induction over its loop. -/
theorem transactionsKeepTheInvariant : Obligations.TransactionsKeepTheInvariant := by
  unfold Obligations.TransactionsKeepTheInvariant
  intro tx s t reply hs h
  exact hs.transactOn h

/-- Settles O46: an instruction moves at most 6 cycles from a budget of at least 1, the halt leaves none. -/
theorem stepKeepsTheAccounting : Obligations.StepKeepsTheAccounting := by
  unfold Obligations.StepKeepsTheAccounting
  intro budget s t hs h
  exact hs.step h

/-- Settles O42: every field by its value after reset. -/
theorem resetMeetsTheInvariant : Obligations.ResetMeetsTheInvariant := by
  unfold Obligations.ResetMeetsTheInvariant
  exact ⟨Inv.resetTo, Inv.resetTo _⟩

/-- Settles O45: by induction over the session, with no run in progress between its transactions. -/
theorem everyReachableStateMeetsTheInvariant : Obligations.EveryReachableStateMeetsTheInvariant := by
  unfold Obligations.EveryReachableStateMeetsTheInvariant
  rintro s ⟨txs, replies, h⟩
  obtain ⟨hinv, hidle⟩ := between_none.session h s rfl
  exact ⟨hinv, transactOn_accepts hidle⟩

end Sys2Proof.Claims
end

section
/-! SUPPORT. The statements about the step (spec/41_dispatch.md R111 to R115, spec/60_exceptions.md R181, R187). -/

namespace Sys2Proof.Machine

/-- The halt as a whole state (R181). -/
theorem takeUnknownOpcode_eq (s : State) :
    takeUnknownOpcode s = { s with pc := s.pc + 1, rem := 0, phase := .halted } := rfl

/-- A step at a byte without an entry is the halt. -/
theorem step_of_lookup_none {s : State} (he : StepEnabled s) (h : opTable.lookup (s.mem.read s.pc) = none) :
    step s = .next { s with pc := s.pc + 1, rem := 0, phase := .halted } :=
  step_unknown he (fetchInstr_eq_none.2 h)

end Sys2Proof.Machine

namespace Sys2Proof.Claims

open Sys2Proof Sys2Proof.Machine

/-- Settles O6: the three bytes are those the step looks at. -/
theorem stepRunsTheDecodedInstruction : Obligations.StepRunsTheDecodedInstruction := by
  unfold Obligations.StepRunsTheDecodedInstruction
  intro s i rest he hd
  exact step_instr he (fetchInstr_eq_some.2 ⟨rest, hd⟩)

/-- Settles O7: a byte outside the list has no entry, so the step is the halt; the byte before the new PC is the one
that was at PC. -/
theorem unrecognisedOpcodeHaltsTheRun : Obligations.UnrecognisedOpcodeHaltsTheRun := by
  unfold Obligations.UnrecognisedOpcodeHaltsTheRun
  intro s he hop
  refine ⟨_, step_of_lookup_none he (lookup_opTable_eq_none.2 hop), rfl, ?_⟩
  show s.mem.read (s.pc + 1 - 1) = s.mem.read s.pc
  rw [BitVec.add_sub_cancel]

/-- Settles O9: no step is enabled in any of the three, and the reason is told by the phase. -/
theorem stepWithoutBudgetOrAfterHaltStopsByName : Obligations.StepWithoutBudgetOrAfterHaltStopsByName := by
  unfold Obligations.StepWithoutBudgetOrAfterHaltStopsByName
  refine fun s => ⟨fun hp hrem => ?_, fun hp => ?_, fun hp => ?_⟩
  · rw [step_disabled (fun he => absurd he.2 (Int.not_lt.2 hrem)), stopReason, hp]
  · rw [step_disabled (not_stepEnabled_of_halted hp), stopReason, hp]
  · rw [step_disabled (fun ⟨hf, _⟩ => by rw [hp] at hf; cases hf), stopReason, hp]

/-- Settles O10: no meaning answers anything but a next state, so a step that is enabled answers one and any other stops. -/
theorem everyInstructionCompletesFromEveryState : Obligations.EveryInstructionCompletesFromEveryState := by
  unfold Obligations.EveryInstructionCompletesFromEveryState
  constructor
  · intro i s
    obtain ⟨t, h⟩ := exec_answers i s
    obtain ⟨-, hphase⟩ := exec_sp_phase h
    exact ⟨t, h, hphase⟩
  · intro s r hr
    by_cases he : StepEnabled s
    · obtain ⟨t, h⟩ := step_answers he
      rw [h] at hr; cases hr
    · rw [step_disabled he] at hr; cases hr

/-- Settles O20: a step was enabled in Fetching; whether the byte has an entry says which of its two ways it took. -/
theorem phaseMovesAsItsTransitionTableSays : Obligations.PhaseMovesAsItsTransitionTableSays := by
  unfold Obligations.PhaseMovesAsItsTransitionTableSays
  refine ⟨fun s t h => ?_, fun s budget hp => ?_, fun s addr v => poke_phase addr v s,
    fun _ vector => resetTo_phase vector⟩
  · obtain ⟨⟨hfetching, -⟩, ⟨i, hi, hx⟩ | ⟨hi, rfl⟩⟩ := step_cases h
    · obtain ⟨-, hphase⟩ := exec_sp_phase hx
      refine ⟨hfetching, fetchOpcode_phase s, fun hnone => ?_, fun _ => hphase⟩
      rw [fetchInstr_eq_none.2 hnone] at hi
      cases hi
    · exact ⟨hfetching, fetchOpcode_phase s, fun _ => takeUnknownOpcode_phase s,
        fun hsome => absurd (fetchInstr_eq_none.1 hi) hsome⟩
  · refine beginRun_phase_eq budget ?_
    rcases hp with hp | hp <;> rw [hp] <;> decide

end Sys2Proof.Claims
end

section
/-! SUPPORT. The statements about runs (spec/41_dispatch.md R110, R116 to R121). -/

namespace Sys2Proof.Machine

/-- What holds all along a run that was started with a budget: its accounting, and that it is at a boundary or halted with a
count that is not negative. -/
structure Running (budget : Int) (s : State) : Prop where
  accounted : Accounted budget s
  boundary : s.phase ≠ .executing
  cyc_nonneg : 0 ≤ s.cyc

theorem Running.beginRun {budget : Int} {s : State} (hb : 1 ≤ budget) (hs : s.phase ≠ .executing) :
    Running budget (beginRun budget s) := by
  have hphase := beginRun_phase_eq budget hs
  refine ⟨⟨fun _ => ?_, fun hh => ?_⟩, ?_, Int.le_refl 0⟩
  · rw [beginRun_rem, beginRun_cyc]; omega
  · rw [hphase] at hh; cases hh
  · rw [hphase]; decide

theorem Running.step {budget : Int} {s t : State} (hs : Running budget s) (h : step s = .next t) : Running budget t := by
  have hacc := hs.accounted.step h
  obtain ⟨-, ⟨i, -, hx⟩ | ⟨-, rfl⟩⟩ := step_cases h
  · obtain ⟨-, hphase⟩ := exec_sp_phase hx
    obtain ⟨hcyc, -⟩ := exec_spends hx
    exact ⟨hacc, by rw [hphase]; decide, Int.le_trans hs.cyc_nonneg (Int.le_of_lt hcyc)⟩
  · exact ⟨hacc, by simp, hs.cyc_nonneg⟩

/-- It holds after any number of steps of the run. -/
theorem Running.runLoop {budget : Int} {s : State} (hb : 1 ≤ budget) (hs : s.phase ≠ .executing) (n : Nat) :
    Running budget (runLoop n (Machine.beginRun budget s)) :=
  runLoop_keeps (fun _ _ => Running.step) n _ (Running.beginRun hb hs)

/-- At a boundary the two counters make up the budget; after a halt nothing is left and less than it is consumed. -/
theorem Running.cases {budget : Int} {s : State} (hs : Running budget s) :
    (s.phase = .fetching ∧ s.rem + s.cyc = budget ∧ -5 ≤ s.rem) ∨
    (s.phase = .halted ∧ s.rem = 0 ∧ s.cyc < budget) := by
  cases hp : s.phase with
  | fetching => exact .inl ⟨rfl, hs.accounted.at_boundary hp⟩
  | halted => exact .inr ⟨rfl, hs.accounted.after_halt hp⟩
  | executing => exact absurd hp hs.boundary

/-- The loop started at a step that halts ends there. -/
theorem runLoop_halt (n : Nat) {s : State} (he : StepEnabled s) (h : opTable.lookup (s.mem.read s.pc) = none) :
    runLoop (n + 1) s = { s with pc := s.pc + 1, rem := 0, phase := .halted } := by
  rw [runLoop_enabled n (step_of_lookup_none he h)]
  exact runLoop_disabled n (not_stepEnabled_of_halted rfl)

end Sys2Proof.Machine

namespace Sys2Proof.Claims

open Sys2Proof Sys2Proof.Machine

/-- Settles O47: every step takes two cycles of the budget or halts. -/
theorem runEndsWhereNoStepIsEnabled : Obligations.RunEndsWhereNoStepIsEnabled := by
  unfold Obligations.RunEndsWhereNoStepIsEnabled
  exact not_stepEnabled_run

/-- Settles O48: by the accounting at the end of the run, where, in Fetching, no budget is left. -/
theorem runReportsWhatItConsumed : Obligations.RunReportsWhatItConsumed := by
  unfold Obligations.RunReportsWhatItConsumed
  intro budget s hb hs
  have hend : Running budget (run budget s).1 := Running.runLoop hb hs budget.toNat
  have hover := not_stepEnabled_run budget s
  have hconsumed : (run budget s).2.consumed = (run budget s).1.cyc := rfl
  have houtcome : (run budget s).2.outcome = runOutcome (run budget s).1 := rfl
  have hcyc := hend.cyc_nonneg
  refine ⟨hconsumed, ?_⟩
  rw [hconsumed, houtcome]
  rcases hend.cases with ⟨hp, hsum, hlow⟩ | ⟨hp, hrem, hless⟩
  · have hspent : ¬ 0 < (run budget s).1.rem := fun hpos => hover ⟨hp, hpos⟩
    exact .inl ⟨hp, by rw [runOutcome, hp], by omega, hlow, by omega⟩
  · exact .inr ⟨hp, by rw [runOutcome, hp], hrem, hcyc, hless⟩

/-- Settles O49: the loop is allowed no step, and what the run's start leaves is never in Halted. -/
theorem runWithoutBudgetExecutesNothing : Obligations.RunWithoutBudgetExecutesNothing := by
  unfold Obligations.RunWithoutBudgetExecutesNothing
  intro budget s hb
  have hsteps : budget.toNat = 0 := by omega
  have houtcome : runOutcome (beginRun budget s) = .exhausted := by
    rw [runOutcome, beginRun_phase]
    cases s.phase <;> rfl
  have hrun : run budget s = (beginRun budget s, ⟨0, runOutcome (beginRun budget s)⟩) := by
    rw [run, hsteps]
    rfl
  rw [hrun, houtcome, beginRun]

/-- Settles O50: the loop takes its one step where the run's start leads, and after it the run is over. -/
theorem runOfOneCycleExecutesOneStep : Obligations.RunOfOneCycleExecutesOneStep := by
  unfold Obligations.RunOfOneCycleExecutesOneStep
  intro s hs
  have hbegin : beginRun 1 s = { s with rem := 1, cyc := 0, phase := .fetching } := by
    rw [← beginRun_phase_eq 1 hs]
    rfl
  have he : StepEnabled (beginRun 1 s) := ⟨beginRun_phase_eq 1 hs, Int.one_pos⟩
  obtain ⟨t, h⟩ := step_answers he
  have hrun : (run 1 s).1 = t := runLoop_enabled 0 h
  exact ⟨t, hbegin ▸ h, hrun, hrun ▸ not_stepEnabled_run 1 s⟩

/-- Settles O51: after half the budget of steps the loop is over, so more steps, the whole budget of them too, change
nothing. -/
theorem runTakesAtMostHalfItsBudgetOfSteps : Obligations.RunTakesAtMostHalfItsBudgetOfSteps := by
  unfold Obligations.RunTakesAtMostHalfItsBudgetOfSteps
  intro budget s n hn
  have hover : ¬ StepEnabled (runLoop ((budget + 1) / 2).toNat (beginRun budget s)) :=
    not_stepEnabled_runLoop _ _ (by rw [beginRun_rem]; omega)
  have hwhole : ((budget + 1) / 2).toNat ≤ budget.toNat := by omega
  exact (runLoop_eq_of_le hn hover).trans (runLoop_eq_of_le hwhole hover).symm

/-- Settles O52: by the accounting, neither counter is above the budget by more than five or below minus five. -/
theorem countersFitThirtyTwoBits : Obligations.CountersFitThirtyTwoBits := by
  unfold Obligations.CountersFitThirtyTwoBits
  intro budget s n hb hmax hs
  have hrun := Running.runLoop hb hs n
  have hcyc := hrun.cyc_nonneg
  rcases hrun.cases with ⟨-, hsum, hlow⟩ | ⟨-, hrem, hless⟩ <;> omega

/-- Settles O53: after a reset the byte at the vector is 0x00, which has no entry, so the first step is the halt. -/
theorem runOfZeroedMemoryHaltsAtOnce : Obligations.RunOfZeroedMemoryHaltsAtOnce := by
  unfold Obligations.RunOfZeroedMemoryHaltsAtOnce
  intro vector budget hb
  obtain ⟨n, hn⟩ : ∃ n, budget.toNat = n + 1 := ⟨budget.toNat - 1, by omega⟩
  have he : StepEnabled (beginRun budget (State.resetTo vector)) := ⟨rfl, hb⟩
  have hzero : opTable.lookup (0x00 : Byte) = none := by decide
  have hloop := runLoop_halt n he hzero
  rw [run, hn, hloop]
  rfl

end Sys2Proof.Claims
end

section
/-! SUPPORT. The packed status byte and the single flags: the two views and the statement about them (spec/10_state.md R16
to R18). -/

namespace Sys2Proof.Machine

/-- Every packed bit is its flag: the positions of R17, evaluated for each name on the 256 settings of the flags. -/
theorem Flags.getLsbD_pack (f : Flags) (name : FlagName) : f.pack.getLsbD name.bit = f.get name := by
  obtain ⟨c, z, i, d, b, u, v, n⟩ := f
  revert c z i d b u v n
  cases name <;> decide

/-- Unpacking takes each flag from its bit. -/
theorem Flags.get_unpack (ps : Byte) (name : FlagName) : (Flags.unpack ps).get name = ps.getLsbD name.bit := by
  cases name <;> rfl

/-- Flags that read the same by every name are the same. -/
theorem Flags.ext_get {f g : Flags} (h : ∀ name, f.get name = g.get name) : f = g := by
  cases f; cases g
  simp only [Flags.mk.injEq]
  exact ⟨h .c, h .z, h .i, h .d, h .b, h .u, h .v, h .n⟩

/-- Every bit of the packed byte is some flag's. -/
theorem FlagName.exists_bit {k : Nat} (h : k < 8) : ∃ name : FlagName, name.bit = k := by
  match k, h with
  | 0, _ => exact ⟨.c, rfl⟩
  | 1, _ => exact ⟨.z, rfl⟩
  | 2, _ => exact ⟨.i, rfl⟩
  | 3, _ => exact ⟨.d, rfl⟩
  | 4, _ => exact ⟨.b, rfl⟩
  | 5, _ => exact ⟨.u, rfl⟩
  | 6, _ => exact ⟨.v, rfl⟩
  | 7, _ => exact ⟨.n, rfl⟩

theorem Flags.unpack_pack (f : Flags) : Flags.unpack f.pack = f :=
  Flags.ext_get fun name => (Flags.get_unpack f.pack name).trans (f.getLsbD_pack name)

theorem Flags.pack_unpack (ps : Byte) : (Flags.unpack ps).pack = ps := by
  apply BitVec.eq_of_getLsbD_eq
  intro k hk
  obtain ⟨name, rfl⟩ := FlagName.exists_bit hk
  rw [Flags.getLsbD_pack, Flags.get_unpack]

theorem Flags.get_set (f : Flags) (name other : FlagName) (x : Bool) :
    (f.set name x).get other = if other = name then x else f.get other := by
  cases name <;> cases other <;> rfl

end Sys2Proof.Machine

namespace Sys2Proof.Claims

open Sys2Proof Sys2Proof.Machine

/-- Settles O30: each bit of the packed byte is one flag and each flag one bit. -/
theorem packedByteAndSingleFlagsAreTwoViews : Obligations.PackedByteAndSingleFlagsAreTwoViews := by
  unfold Obligations.PackedByteAndSingleFlagsAreTwoViews
  exact ⟨Flags.unpack_pack, Flags.pack_unpack, Flags.getLsbD_pack, Flags.get_set⟩

end Sys2Proof.Claims
end

section
/-! SUPPORT. The statements about the host's transactions (spec/00_scope.md R8, spec/70_reset_and_hazards.md). -/

namespace Sys2Proof.Claims

open Sys2Proof Sys2Proof.Machine

/-- Settles O41: each value as the reset state has it, whatever was before. -/
theorem resetLeavesTheSameStateWhateverWasBefore : Obligations.ResetLeavesTheSameStateWhateverWasBefore := by
  unfold Obligations.ResetLeavesTheSameStateWhateverWasBefore
  intro vector s
  have hps : (State.resetTo vector).flags.pack = 0x00 := by rw [resetTo_flags]; decide
  exact ⟨rfl, rfl, hps, rfl, rfl, rfl, Memory.read_nil, rfl, rfl, rfl⟩

/-- Settles O54: a transaction tests first whether a run is in progress, and refuses nothing else; before the first reset it
tests whether it is a reset. -/
theorem transactionsMoveOnlyBetweenRuns : Obligations.TransactionsMoveOnlyBetweenRuns := by
  unfold Obligations.TransactionsMoveOnlyBetweenRuns
  have refuses : ∀ (tx : Transaction) (s : State), RunInProgress s → transact tx (some s) = .error .runInProgress :=
    fun tx s h => if_pos h
  refine ⟨fun tx s => ⟨?_, transactOn_accepts (s := s) (tx := tx)⟩, refuses, fun vector => rfl, fun tx hreset => ?_⟩
  · rintro ⟨t, reply, h⟩ hbusy
    rw [refuses tx s hbusy] at h
    cases h
  · cases tx with
    | reset vector => exact absurd rfl (hreset vector)
    | poke _ _ | run _ | snapshot _ => rfl

/-- Settles O55: Poke is one write; the packed byte shown unpacks to the flags; between runs the test for a run in progress
fails, and what is left is the operation. -/
theorem pokeAndSnapshotDoWhatTheySay : Obligations.PokeAndSnapshotDoWhatTheySay := by
  unfold Obligations.PokeAndSnapshotDoWhatTheySay
  refine ⟨fun addr v s => ⟨s.mem.write addr v, rfl, fun b => Memory.read_write_eq_ite s.mem addr b v⟩,
    fun cells s => ⟨rfl, rfl, rfl, rfl, rfl, Flags.unpack_pack s.flags, fun addr haddr => ?_⟩, fun s hidle => ?_⟩
  · exact List.mem_map_of_mem haddr
  · exact ⟨fun _ _ => if_neg hidle, fun _ => if_neg hidle, fun _ => if_neg hidle, fun _ => if_neg hidle⟩

end Sys2Proof.Claims
end

section
/-! SUPPORT. The effective address of each mode in the words of the statements (spec/40_addressing.md R91 to R102), and the
cost of a page crossing. -/

namespace Sys2Proof.Claims

open Sys2Proof Sys2Proof.Machine

theorem pointerAt_eq_pointer (s : State) (ptr : Addr) : pointerAt s ptr = pointer s ptr := pair_eq_pointer s ptr

section
variable (s : State) (zp8 : Byte) (w : Addr)

theorem effectiveAddr_zp : effectiveAddr s .zp (.byte zp8) = some (zpSum zp8 0) :=
  congrArg some (zeroExtend_eq_zpSum zp8)

theorem effectiveAddr_zpx : effectiveAddr s .zpx (.byte zp8) = some (zpSum zp8 s.x) :=
  congrArg some (zpIndexed_eq_zpSum zp8 s.x)

theorem effectiveAddr_zpy : effectiveAddr s .zpy (.byte zp8) = some (zpSum zp8 s.y) :=
  congrArg some (zpIndexed_eq_zpSum zp8 s.y)

theorem effectiveAddr_abs : effectiveAddr s .abs (.word w) = some w := rfl

theorem effectiveAddr_absx : effectiveAddr s .absx (.word w) = some (absSum w s.x) :=
  congrArg some (absIndexed_eq_absSum w s.x)

theorem effectiveAddr_absy : effectiveAddr s .absy (.word w) = some (absSum w s.y) :=
  congrArg some (absIndexed_eq_absSum w s.y)

theorem effectiveAddr_indx : effectiveAddr s .indx (.byte zp8) = some (pointer s (zpSum zp8 s.x)) := by
  rw [← zpIndexed_eq_zpSum, ← pointerAt_eq_pointer]
  rfl

theorem effectiveAddr_indy : effectiveAddr s .indy (.byte zp8) = some (pointer s (zpSum zp8 s.y)) := by
  rw [← zpIndexed_eq_zpSum, ← pointerAt_eq_pointer]
  rfl

end

/-- An indexed absolute instruction costs one cycle more where the detector answers true. -/
theorem absCost_eq_ite (base : Addr) (r : Byte) :
    absCost base r = if pageCross base (absIndexed base r) then 5 else 4 := by
  unfold absCost
  rw [← absIndexed_eq_absSum]
  by_cases h : base.toNat / 256 = (absIndexed base r).toNat / 256 <;> simp [h, pageCross_iff]

theorem addrAbsX_eq (w : Addr) (s : State) : addrAbsX w s = (absSum w s.x, charge (absCost w s.x - 4) s) := by
  rw [addrAbsX, crossTick_absIndexed, absIndexed_eq_absSum]

theorem addrAbsY_eq (w : Addr) (s : State) : addrAbsY w s = (absSum w s.y, charge (absCost w s.y - 4) s) := by
  rw [addrAbsY, crossTick_absIndexed, absIndexed_eq_absSum]

/-- `ReadWord(addr)` as a whole state (R54). -/
theorem readWord_eq (addr : Addr) (s : State) :
    readWord addr s = (pointer s addr, { s with rem := s.rem - 2, cyc := s.cyc + 2 }) := by
  rw [← pair_eq_pointer]
  simp [readWord, readByte_eq, secondByteAddr, Config.ptrHi, Int.sub_sub, Int.add_assoc]

theorem addrIndX_eq (zp8 : Byte) (s : State) : addrIndX zp8 s = (pointer s (zpSum zp8 s.x), charge 3 s) := by
  rw [addrIndX, readWord_eq, zpIndexed_eq_zpSum]
  simp [tick, charge, pointer, Int.sub_sub, Int.add_assoc]

theorem addrIndY_eq (zp8 : Byte) (s : State) : addrIndY zp8 s = (pointer s (zpSum zp8 s.y), charge 3 s) := by
  rw [addrIndY, readWord_eq, zpIndexed_eq_zpSum]
  simp [tick, charge, pointer, Int.sub_sub, Int.add_assoc]

end Sys2Proof.Claims
end

section
/-! SUPPORT. The statements about the primitives and the arithmetic of the addressing modes (spec/20_memory.md R51, R54,
spec/40_addressing.md R92 to R102). -/

namespace Sys2Proof.Claims

open Sys2Proof Sys2Proof.Machine

/-- Settles O32: two byte accesses each, the second at the next 16-bit address. -/
theorem wordPrimitivesTakeTheLowByteFirst : Obligations.WordPrimitivesTakeTheLowByteFirst := by
  unfold Obligations.WordPrimitivesTakeTheLowByteFirst
  exact fun s addr => ⟨fetchWord_eq s, readWord_eq addr s⟩

/-- Settles O34: canonical memories with the same contents list the same cells, and only one order of them rises. -/
theorem canonicalMemoriesWithTheSameContentsAreEqual : Obligations.CanonicalMemoriesWithTheSameContentsAreEqual := by
  unfold Obligations.CanonicalMemoriesWithTheSameContentsAreEqual
  intro m m' hm hm' hread
  have hlookup : ∀ a, Memory.lookup m a = Memory.lookup m' a := by
    intro a
    by_cases ha : a < 65536
    · have := hread (BitVec.ofNat 16 a)
      rwa [Memory.read, Memory.read, BitVec.toNat_ofNat, Nat.mod_eq_of_lt ha] at this
    · rw [Memory.lookup_out hm (Nat.not_lt.1 ha), Memory.lookup_out hm' (Nat.not_lt.1 ha)]
  have hcells : ∀ c, c ∈ m ↔ c ∈ m' := fun ⟨a, v⟩ => by rw [Memory.mem_iff hm, Memory.mem_iff hm', hlookup]
  have nodup : ∀ {l : Memory}, l.wf → l.Nodup := fun hl => hl.1.imp fun h e => by rw [e] at h; omega
  refine ((List.perm_ext_iff_of_nodup (nodup hm) (nodup hm')).2 hcells).eq_of_pairwise ?_ hm.1 hm'.1
  intro c d _ _ hcd hdc
  omega

/-- Settles O36: the model's sum is the sum of the numbers modulo 65536, evaluated in the example. -/
theorem absoluteIndexWrapsAtTheTop : Obligations.AbsoluteIndexWrapsAtTheTop := by
  unfold Obligations.AbsoluteIndexWrapsAtTheTop
  refine ⟨fun base r => ?_, by decide⟩
  rw [absIndexed_eq_absSum, absSum, BitVec.toNat_ofNat]

/-- The high byte of an indexed sum changes exactly when the low byte and the index reach 256. -/
theorem pageCross_absIndexed_iff (base : Addr) (r : Byte) :
    pageCross base (absIndexed base r) = true ↔ 256 ≤ (lo8 base).toNat + r.toNat := by
  have hbase := base.isLt
  have hr := r.isLt
  rw [pageCross_iff, absIndexed_eq_absSum, absSum, BitVec.toNat_ofNat, toNat_lo8]
  omega

/-- Settles O37: the detector compares the high bytes, whose change is the carry out of the low byte's sum. -/
theorem pageCrossingIsAChangeOfTheHighByte : Obligations.PageCrossingIsAChangeOfTheHighByte := by
  unfold Obligations.PageCrossingIsAChangeOfTheHighByte
  refine ⟨fun base indexed => ?_, pageCross_absIndexed_iff, fun base => ?_, by decide, by decide,
    fun base indexed s => rfl⟩
  · rw [pageCross_iff, ne_eq, ne_eq, ← BitVec.toNat_inj, toNat_hi8, toNat_hi8]
  · rw [← Bool.not_eq_true, pageCross_absIndexed_iff]
    have := (lo8 base).isLt
    simpa using this

/-- Settles O39: the fetch of the operand, then the crossing cycle, or the add-cycle and the two reads of the pointer. -/
theorem indexedAbsoluteAndIndirectModesResolve : Obligations.IndexedAbsoluteAndIndirectModesResolve := by
  unfold Obligations.IndexedAbsoluteAndIndirectModesResolve
  refine fun s => ⟨?absx, ?absy, ?indx, ?indy, rfl⟩
  case absx =>
    rw [resolve, fetchWord_eq, addrAbsX_eq]
    simp [asAddr, charge]
    omega
  case absy =>
    rw [resolve, fetchWord_eq, addrAbsY_eq]
    simp [asAddr, charge]
    omega
  case indx =>
    rw [resolve, fetchByte_eq, addrIndX_eq]
    simp [asAddr, charge, pointer, Int.sub_sub, Int.add_assoc]
  case indy =>
    rw [resolve, fetchByte_eq, addrIndY_eq]
    simp [asAddr, charge, pointer, Int.sub_sub, Int.add_assoc]

end Sys2Proof.Claims
end

section
/-! SUPPORT. An instruction as a whole next state: the end of its bytes and cycles, with what its operation brings into a
register (spec/42_load.md R130, spec/44_transfer.md R170) or what it stores (spec/43_store.md R150). -/

namespace Sys2Proof.Machine

/-- Two states with the same general registers and the same other fields are the same. -/
theorem State.ext_getReg {s t : State} (hregs : ∀ q, getReg s q = getReg t q) (hsp : s.sp = t.sp) (hpc : s.pc = t.pc)
    (hflags : s.flags = t.flags) (hphase : s.phase = t.phase) (hrem : s.rem = t.rem) (hcyc : s.cyc = t.cyc)
    (hmem : s.mem = t.mem) : s = t :=
  State.ext_fields (hregs .a) (hregs .x) (hregs .y) hsp hpc hflags hphase hrem hcyc hmem

/-- An operation with a destination stores no register. -/
theorem stored?_eq_none {o : Operation} {r : Reg} (h : Operation.dest? o = some r) : Operation.stored? o = none := by
  cases o with
  | lda | ldx | ldy | tax | tay | txa | tya => rfl
  | sta | stx | sty => cases h

/-- An operation that stores a register has no destination. -/
theorem dest?_eq_none {o : Operation} {r : Reg} (h : Operation.stored? o = some r) : Operation.dest? o = none := by
  cases o with
  | lda | ldx | ldy | tax | tay | txa | tya => cases h
  | sta | stx | sty => rfl

/-- Every operation has a destination or stores a register. -/
theorem dest_or_stored (o : Operation) :
    (∃ r, Operation.dest? o = some r) ∨ (∃ r, Operation.stored? o = some r) := by
  cases o with
  | lda | ldx | ldy | tax | tay | txa | tya => exact .inl ⟨_, rfl⟩
  | sta | stx | sty => exact .inr ⟨_, rfl⟩

end Sys2Proof.Machine

namespace Sys2Proof.Claims

open Sys2Proof Sys2Proof.Machine

theorem getReg_ended (len : Nat) (cost : Int) (s : State) (q : Reg) : getReg (ended len cost s) q = getReg s q := by
  cases q <;> rfl

/-- The value an instruction brings into its destination: what a load loads, the source of a transfer. -/
def incoming (i : Instr) (s : State) : Option Byte :=
  match i.form.operation with
  | .tax | .tay => some s.a
  | .txa => some s.x
  | .tya => some s.y
  | .lda | .ldx | .ldy | .sta | .stx | .sty => loadedValue i s

/-- After an instruction its destination holds what it brings in. -/
theorem incoming_eq {i : Instr} {r : Reg} {s t : State} (hd : Operation.dest? i.form.operation = some r)
    (h : exec i s = .next t) : incoming i s = some (getReg t r) := by
  cases i with
  | ldaImm _ | ldaZp _ | ldaZpX _ | ldaAbs _ | ldaAbsX _ | ldaAbsY _ | ldaIndX _ | ldaIndY _ =>
    cases hd
    exact LoadsInto.loadedValue_eq (.inl ⟨rfl, rfl⟩) h
  | ldxImm _ | ldxZp _ | ldxZpY _ | ldxAbs _ | ldxAbsY _ =>
    cases hd
    exact LoadsInto.loadedValue_eq (.inr (.inl ⟨rfl, rfl⟩)) h
  | ldyImm _ | ldyZp _ | ldyZpX _ | ldyAbs _ | ldyAbsX _ =>
    cases hd
    exact LoadsInto.loadedValue_eq (.inr (.inr ⟨rfl, rfl⟩)) h
  | tax | tay | txa | tya =>
    cases hd
    cases h
    rfl
  | _ => cases hd

/-- An instruction with a destination, as a whole next state. -/
theorem exec_of_dest {i : Instr} {r : Reg} {v : Byte} {s : State} (hd : Operation.dest? i.form.operation = some r)
    (hv : incoming i s = some v) :
    exec i s = .next (loadValue r v (ended (encode i).length (tableCost i s) s)) := by
  obtain ⟨t, h⟩ := exec_answers i s
  obtain ⟨hcyc, hrem⟩ := exec_charges h
  obtain ⟨hsp, hphase⟩ := exec_sp_phase h
  obtain rfl : getReg t r = v := Option.some.inj ((incoming_eq hd h).symm.trans hv)
  have hflags : t.flags = s.flags.setZN (getReg t r) := by rw [exec_flags_eq h, flagsAfter, hd]
  have hmem := exec_mem_of_stored?_eq_none h (stored?_eq_none hd)
  rw [h]
  congr 1
  apply State.ext_getReg
  case hregs =>
    intro q
    rw [getReg_loadValue]
    split
    · next hq => rw [hq]
    · next hq => rw [exec_getReg_other h (by rw [hd]; exact fun e => hq (Option.some.inj e)), getReg_ended]
  case hsp => rw [loadValue_sp]; exact hsp
  case hpc => rw [loadValue_pc]; exact exec_pc h
  case hflags => rw [loadValue_flags]; exact hflags
  case hphase => rw [loadValue_phase]; exact hphase
  case hrem => rw [loadValue_rem]; exact hrem
  case hcyc => rw [loadValue_cyc]; exact hcyc
  case hmem => rw [loadValue_mem]; exact hmem

/-- A store, as a whole next state. -/
theorem exec_of_stored {i : Instr} {r : Reg} {ea : Addr} {s : State} (hs : Operation.stored? i.form.operation = some r)
    (hea : effectiveAddr s i.form.mode i.form.operand = some ea) :
    exec i s = .next (stored ea (getReg s r) (ended (encode i).length (tableCost i s) s)) := by
  obtain ⟨t, h⟩ := exec_answers i s
  obtain ⟨hcyc, hrem⟩ := exec_charges h
  obtain ⟨hsp, hphase⟩ := exec_sp_phase h
  obtain ⟨ea', hea', hmem⟩ := exec_mem_of_stored?_eq_some h hs
  obtain rfl : ea' = ea := Option.some.inj (hea'.symm.trans hea)
  have hdest := dest?_eq_none hs
  rw [h]
  congr 1
  apply State.ext_getReg
  case hregs => exact fun q => (exec_getReg_other h (by rw [hdest]; exact nofun)).trans (by cases q <;> rfl)
  case hsp => exact hsp
  case hpc => exact exec_pc h
  case hflags => rw [exec_flags_eq h, flagsAfter, hdest]; rfl
  case hphase => exact hphase
  case hrem => exact hrem
  case hcyc => exact hcyc
  case hmem => exact hmem

/-- An instruction with a destination and an effective address brings in the cell there. -/
theorem incoming_of_effectiveAddr {i : Instr} {r : Reg} {ea : Addr} {s : State}
    (hd : Operation.dest? i.form.operation = some r) (hea : effectiveAddr s i.form.mode i.form.operand = some ea) :
    incoming i s = some (s.mem.read ea) := by
  cases i with
  | ldaImm _ | ldxImm _ | ldyImm _ | tax | tay | txa | tya => cases hea
  | staZp _ | staZpX _ | staAbs _ | staAbsX _ | staAbsY _ | staIndX _ | staIndY _ | stxZp _ | stxZpY _ | stxAbs _
  | styZp _ | styZpX _ | styAbs _ => cases hd
  | _ =>
    cases hea
    rfl

/-- A load in any mode but `IMM`, as a whole next state. -/
theorem exec_of_cell {i : Instr} {r : Reg} {ea : Addr} {s : State} (hd : Operation.dest? i.form.operation = some r)
    (hea : effectiveAddr s i.form.mode i.form.operand = some ea) :
    exec i s = .next (loadValue r (s.mem.read ea) (ended (encode i).length (tableCost i s) s)) :=
  exec_of_dest hd (incoming_of_effectiveAddr hd hea)

end Sys2Proof.Claims
end

section
/-! SUPPORT. The statements about the loads and stores form by form (spec/42_load.md R131 to R148, spec/43_store.md R151 to
R163): each form has its effective address and its row of the cost table, and the rest is common to all. -/

namespace Sys2Proof.Claims

open Sys2Proof Sys2Proof.Machine

/-- Settles O21: a load into A of the immediate, or of the cell at the effective address of the form. -/
theorem ldaLoadsTheAccumulator : Obligations.LdaLoadsTheAccumulator := by
  unfold Obligations.LdaLoadsTheAccumulator
  intro s
  simp only [← loadValue_a_eq_intoA]
  refine ⟨fun v => ?imm, fun zp8 => ?zp, fun zp8 => ?zpx, fun w => ?abs, fun w => ?absx, fun w => ?absy,
    fun zp8 => ?indx, fun zp8 => ?indy⟩
  case imm => exact exec_of_dest rfl rfl
  case zp => exact exec_of_cell rfl (effectiveAddr_zp s zp8)
  case zpx => exact exec_of_cell rfl (effectiveAddr_zpx s zp8)
  case abs => exact exec_of_cell rfl (effectiveAddr_abs s w)
  case absx => exact exec_of_cell rfl (effectiveAddr_absx s w)
  case absy => exact exec_of_cell rfl (effectiveAddr_absy s w)
  case indx => exact exec_of_cell rfl (effectiveAddr_indx s zp8)
  case indy => exact exec_of_cell rfl (effectiveAddr_indy s zp8)

/-- Settles O22: a load into X of the immediate, or of the cell at the effective address of the form. -/
theorem ldxLoadsX : Obligations.LdxLoadsX := by
  unfold Obligations.LdxLoadsX
  intro s
  simp only [← loadValue_x_eq_intoX]
  refine ⟨fun v => ?imm, fun zp8 => ?zp, fun zp8 => ?zpy, fun w => ?abs, fun w => ?absy⟩
  case imm => exact exec_of_dest rfl rfl
  case zp => exact exec_of_cell rfl (effectiveAddr_zp s zp8)
  case zpy => exact exec_of_cell rfl (effectiveAddr_zpy s zp8)
  case abs => exact exec_of_cell rfl (effectiveAddr_abs s w)
  case absy => exact exec_of_cell rfl (effectiveAddr_absy s w)

/-- Settles O23: a load into Y of the immediate, or of the cell at the effective address of the form. -/
theorem ldyLoadsY : Obligations.LdyLoadsY := by
  unfold Obligations.LdyLoadsY
  intro s
  simp only [← loadValue_y_eq_intoY]
  refine ⟨fun v => ?imm, fun zp8 => ?zp, fun zp8 => ?zpx, fun w => ?abs, fun w => ?absx⟩
  case imm => exact exec_of_dest rfl rfl
  case zp => exact exec_of_cell rfl (effectiveAddr_zp s zp8)
  case zpx => exact exec_of_cell rfl (effectiveAddr_zpx s zp8)
  case abs => exact exec_of_cell rfl (effectiveAddr_abs s w)
  case absx => exact exec_of_cell rfl (effectiveAddr_absx s w)

/-- Settles O24: a store of A at the effective address of the form, in the state before. -/
theorem staStoresTheAccumulator : Obligations.StaStoresTheAccumulator := by
  unfold Obligations.StaStoresTheAccumulator
  intro s
  refine ⟨fun zp8 => ?zp, fun zp8 => ?zpx, fun w => ?abs, fun w => ?absx, fun w => ?absy, fun zp8 => ?indx,
    fun zp8 => ?indy⟩
  case zp => exact exec_of_stored (r := .a) rfl (effectiveAddr_zp s zp8)
  case zpx => exact exec_of_stored (r := .a) rfl (effectiveAddr_zpx s zp8)
  case abs => exact exec_of_stored (r := .a) rfl (effectiveAddr_abs s w)
  case absx => exact exec_of_stored (r := .a) rfl (effectiveAddr_absx s w)
  case absy => exact exec_of_stored (r := .a) rfl (effectiveAddr_absy s w)
  case indx => exact exec_of_stored (r := .a) rfl (effectiveAddr_indx s zp8)
  case indy => exact exec_of_stored (r := .a) rfl (effectiveAddr_indy s zp8)

/-- Settles O25: a store of X or Y at the effective address of the form, in the state before. -/
theorem stxAndStyStoreTheirRegister : Obligations.StxAndStyStoreTheirRegister := by
  unfold Obligations.StxAndStyStoreTheirRegister
  intro s
  refine ⟨fun zp8 => ?stxZp, fun zp8 => ?stxZpY, fun w => ?stxAbs, fun zp8 => ?styZp, fun zp8 => ?styZpX,
    fun w => ?styAbs⟩
  case stxZp => exact exec_of_stored (r := .x) rfl (effectiveAddr_zp s zp8)
  case stxZpY => exact exec_of_stored (r := .x) rfl (effectiveAddr_zpy s zp8)
  case stxAbs => exact exec_of_stored (r := .x) rfl (effectiveAddr_abs s w)
  case styZp => exact exec_of_stored (r := .y) rfl (effectiveAddr_zp s zp8)
  case styZpX => exact exec_of_stored (r := .y) rfl (effectiveAddr_zpx s zp8)
  case styAbs => exact exec_of_stored (r := .y) rfl (effectiveAddr_abs s w)

/-- Settles O40: with X replaced by Y the two forms have the same effective address, so the same next state but for X. -/
theorem indirectYIsIndirectXKeyedByY : Obligations.IndirectYIsIndirectXKeyedByY := by
  unfold Obligations.IndirectYIsIndirectXKeyedByY
  intro zp8 s t
  constructor
  · intro h
    rw [exec_of_cell rfl (effectiveAddr_indy s zp8)] at h
    cases h
    exact exec_of_cell (i := .ldaIndX zp8) rfl (effectiveAddr_indx { s with x := s.y } zp8)
  · intro h
    rw [exec_of_stored rfl (effectiveAddr_indy s zp8)] at h
    cases h
    exact exec_of_stored (i := .staIndX zp8) rfl (effectiveAddr_indx { s with x := s.y } zp8)

/-- An instruction ends later by as much as its budget is larger. -/
theorem ended_rem_add (len : Nat) (cost k : Int) (s : State) :
    ended len cost { s with rem := s.rem + k } =
      { ended len cost s with rem := (ended len cost s).rem + k } := by
  simp only [ended, State.mk.injEq, true_and, and_true]
  omega

/-- Settles O19: what an instruction brings in, stores and costs is taken from the registers and memory alone, and its end
moves the budget by its cost. -/
theorem budgetDoesNotChangeWhatAnInstructionDoes : Obligations.BudgetDoesNotChangeWhatAnInstructionDoes := by
  unfold Obligations.BudgetDoesNotChangeWhatAnInstructionDoes
  intro i s t k h
  have hcost : tableCost i { s with rem := s.rem + k } = tableCost i s := rfl
  rcases dest_or_stored i.form.operation with ⟨r, hd⟩ | ⟨r, hst⟩
  · have hv := incoming_eq hd h
    have hv' : incoming i { s with rem := s.rem + k } = some (getReg t r) := hv
    rw [exec_of_dest hd hv', hcost, ended_rem_add]
    generalize getReg t r = v at hv ⊢
    rw [exec_of_dest hd hv] at h
    cases h
    cases r <;> rfl
  · obtain ⟨ea, hea, -⟩ := exec_mem_of_stored?_eq_some h hst
    have hea' : effectiveAddr { s with rem := s.rem + k } i.form.mode i.form.operand = some ea := hea
    rw [exec_of_stored hst hea', hcost, ended_rem_add]
    rw [exec_of_stored hst hea] at h
    cases h
    cases r <;> rfl

end Sys2Proof.Claims
end

section
/-! SUPPORT. The charged cycles of an instruction (spec/40_addressing.md R104, R105): how many there are, which of them
fetch, and what they write. -/

namespace Sys2Proof.Claims

open Sys2Proof Sys2Proof.Machine

/-- There are as many cycles as the instruction costs; the indexed absolute modes have the crossing cycle where they charge
it. -/
theorem length_accesses (i : Instr) (s : State) : ((accesses i s).length : Int) = tableCost i s := by
  cases i with
  | ldaAbsX w | ldaAbsY w | ldxAbsY w | ldyAbsX w | staAbsX w | staAbsY w =>
    simp only [accesses, Instr.form, resolveAccesses, effectiveAddr, Operation.stored?, tableCost, absCost_eq_ite]
    split <;> rfl
  | _ => rfl

/-- The crossing cycle fetches nothing. -/
theorem filterMap_fetchedAddr_internal (p : Prop) [Decidable p] :
    (if p then [Access.internal] else []).filterMap fetchedAddr = [] := by
  split <;> rfl

/-- The fetches are of the instruction's own bytes, ascending from `PC`. -/
theorem filterMap_fetchedAddr_accesses (i : Instr) (s : State) :
    (accesses i s).filterMap fetchedAddr =
      (List.range (encode i).length).map (fun k => s.pc + BitVec.ofNat 16 k) := by
  cases i <;>
    simp [accesses, Instr.form, resolveAccesses, effectiveAddr, Operation.stored?, encode, fetchedAddr, List.range_succ,
      filterMap_fetchedAddr_internal]

/-- Each of the instruction's own bytes is fetched. -/
theorem fetch_mem_accesses (i : Instr) (s : State) {k : Nat} (hk : k < (encode i).length) :
    Access.fetch (s.pc + BitVec.ofNat 16 k) ∈ accesses i s := by
  have hfetched : s.pc + BitVec.ofNat 16 k ∈ (accesses i s).filterMap fetchedAddr := by
    rw [filterMap_fetchedAddr_accesses]
    exact List.mem_map_of_mem (List.mem_range.2 hk)
  obtain ⟨c, hc, hcaddr⟩ := List.mem_filterMap.1 hfetched
  cases c with
  | fetch addr => cases hcaddr; exact hc
  | read _ | write _ _ | internal => cases hcaddr

section
variable {i : Instr} {r : Reg} {ea : Addr} {s : State}

/-- The cycles of a store end with its write. -/
theorem accesses_of_stored (hs : Operation.stored? i.form.operation = some r)
    (hea : effectiveAddr s i.form.mode i.form.operand = some ea) :
    accesses i s = .fetch s.pc :: resolveAccesses s i.form.mode i.form.operand ++ [.write ea (getReg s r)] := by
  rw [accesses, hea, hs]

/-- The cycles of a load in any mode but `IMM` end with its read. -/
theorem accesses_of_cell (hs : Operation.stored? i.form.operation = none)
    (hea : effectiveAddr s i.form.mode i.form.operand = some ea) :
    accesses i s = .fetch s.pc :: resolveAccesses s i.form.mode i.form.operand ++ [.read ea] := by
  rw [accesses, hea, hs]

/-- The cycles of an instruction without an effective address have no data access. -/
theorem accesses_of_no_cell (hea : effectiveAddr s i.form.mode i.form.operand = none) :
    accesses i s = .fetch s.pc :: resolveAccesses s i.form.mode i.form.operand := by
  rw [accesses, hea, List.append_nil]

/-- No cycle before the data access writes. -/
theorem write_notMem_resolveAccesses (s : State) (mode : Mode) (p : Operand) (addr : Addr) (v : Byte) :
    Access.write addr v ∉ resolveAccesses s mode p := by
  cases mode with
  | absx | absy =>
    cases p with
    | word w => simp only [resolveAccesses]; split <;> simp
    | none | byte _ => simp [resolveAccesses]
  | indx | indy => cases p <;> simp [resolveAccesses]
  | _ => simp [resolveAccesses]

/-- An instruction that is no store has no write among its cycles. -/
theorem write_notMem_accesses (hs : Operation.stored? i.form.operation = none) (addr : Addr) (v : Byte) :
    Access.write addr v ∉ accesses i s := by
  cases hea : effectiveAddr s i.form.mode i.form.operand with
  | some ea => rw [accesses_of_cell hs hea]; simp [write_notMem_resolveAccesses]
  | none => rw [accesses_of_no_cell hea]; simp [write_notMem_resolveAccesses]

/-- The one write among the cycles of a store is of its register at its effective address. -/
theorem write_mem_accesses (hs : Operation.stored? i.form.operation = some r)
    (hea : effectiveAddr s i.form.mode i.form.operand = some ea) {addr : Addr} {v : Byte} :
    Access.write addr v ∈ accesses i s ↔ addr = ea ∧ v = getReg s r := by
  rw [accesses_of_stored hs hea]
  simp [write_notMem_resolveAccesses]

/-- Cycles without a write leave memory. -/
theorem foldl_applyAccess_of_no_write {cycles : List Access} (h : ∀ addr v, Access.write addr v ∉ cycles) (m : Memory) :
    cycles.foldl applyAccess m = m := by
  induction cycles with
  | nil => rfl
  | cons c rest ih =>
    have hc : applyAccess m c = m := by
      cases c with
      | write addr v => exact absurd List.mem_cons_self (h addr v)
      | fetch _ | read _ | internal => rfl
    rw [List.foldl_cons, hc]
    exact ih fun addr v hmem => h addr v (List.mem_cons_of_mem c hmem)

/-- What a store leaves in memory is what its cycles write. -/
theorem foldl_applyAccess_of_stored (hs : Operation.stored? i.form.operation = some r)
    (hea : effectiveAddr s i.form.mode i.form.operand = some ea) (m : Memory) :
    (accesses i s).foldl applyAccess m = m.write ea (getReg s r) := by
  rw [accesses_of_stored hs hea, List.cons_append, List.foldl_cons, List.foldl_append,
    foldl_applyAccess_of_no_write (write_notMem_resolveAccesses s _ _)]
  rfl

end

end Sys2Proof.Claims
end

section
/-! SUPPORT. The instruction at `PC` by its encoding: it is there exactly when the bytes of its own length are its encoding,
whatever stands after them (spec/20_memory.md R52, spec/30_encoding.md R70). -/

namespace Sys2Proof.Machine

/-- The bytes at `PC` and the addresses after it, wrapping. -/
def codeAt (s : State) (n : Nat) : List Byte := (List.range n).map fun k => s.mem.read (s.pc + BitVec.ofNat 16 k)

theorem codeAt_three (s : State) : codeAt s 3 = bytesAtPc s := by simp [codeAt, bytesAtPc, List.range_succ]

theorem take_codeAt (s : State) {n m : Nat} (h : n ≤ m) : (codeAt s m).take n = codeAt s n := by
  rw [codeAt, ← List.map_take, List.take_range, Nat.min_eq_left h, codeAt]

theorem length_encode_le (i : Instr) : (encode i).length ≤ 3 := by
  cases i <;> simp [encode]

theorem fetchInstr_iff_codeAt {s : State} {i : Instr} :
    fetchInstr s = some i ↔ codeAt s (encode i).length = encode i := by
  rw [fetchInstr_eq_some, ← codeAt_three, ← take_codeAt s (length_encode_le i)]
  constructor
  · rintro ⟨rest, h⟩
    rw [eq_encode_of_decode h, List.take_left]
  · intro h
    have hsplit := List.take_append_drop (encode i).length (codeAt s 3)
    rw [h] at hsplit
    exact ⟨_, (congrArg decode hsplit).symm.trans (decode_encode i _)⟩

end Sys2Proof.Machine
end

section
/-! SUPPORT. What an instruction reads of memory (spec/20_memory.md R52, R56): the cells its cycles fetch or read. -/

namespace Sys2Proof.Claims

open Sys2Proof Sys2Proof.Machine

section
variable {i : Instr} {s : State} {m : Memory}

/-- The effective address rests on the cells read before the data access: the pointer's two bytes. -/
theorem effectiveAddr_congr_mem {mode : Mode} {p : Operand}
    (hm : ∀ addr, Access.read addr ∈ resolveAccesses s mode p → m.read addr = s.mem.read addr) :
    effectiveAddr { s with mem := m } mode p = effectiveAddr s mode p := by
  have hpointer : ∀ ptr, m.read ptr = s.mem.read ptr → m.read (secondByteAddr ptr) = s.mem.read (secondByteAddr ptr) →
      pointerAt { s with mem := m } ptr = pointerAt s ptr := by
    intro ptr hlow hhigh
    simp only [pointerAt, hlow, hhigh]
  cases mode with
  | indx | indy =>
    cases p with
    | byte zp8 => exact congrArg some (hpointer _ (hm _ (by simp [resolveAccesses])) (hm _ (by simp [resolveAccesses])))
    | none | word _ => rfl
  | _ => cases p <;> rfl

variable (hm : ∀ addr, Looks (accesses i s) addr → m.read addr = s.mem.read addr)
include hm

theorem effectiveAddr_of_looks :
    effectiveAddr { s with mem := m } i.form.mode i.form.operand = effectiveAddr s i.form.mode i.form.operand :=
  effectiveAddr_congr_mem fun addr h => hm addr (.inr (by simp [accesses, h]))

theorem incoming_of_looks {r : Reg} (hd : Operation.dest? i.form.operation = some r) :
    incoming i { s with mem := m } = incoming i s := by
  have hea := effectiveAddr_of_looks hm
  cases h : effectiveAddr s i.form.mode i.form.operand with
  | some ea =>
    have hread : m.read ea = s.mem.read ea := hm ea (.inr (by simp [accesses_of_cell (stored?_eq_none hd) h]))
    rw [incoming_of_effectiveAddr hd (hea.trans h), incoming_of_effectiveAddr hd h]
    exact congrArg some hread
  | none =>
    cases i with
    | ldaImm _ | ldxImm _ | ldyImm _ | tax | tay | txa | tya => rfl
    | _ => cases h

theorem fetchInstr_of_looks (hi : fetchInstr s = some i) : fetchInstr { s with mem := m } = some i := by
  rw [fetchInstr_iff_codeAt] at hi ⊢
  have hsame : codeAt { s with mem := m } (encode i).length = codeAt s (encode i).length :=
    List.map_congr_left fun k hk => hm _ (.inl (fetch_mem_accesses i s (List.mem_range.1 hk)))
  exact hsame.trans hi

end

end Sys2Proof.Claims
end

section
/-! SUPPORT. The statements about what an instruction costs, fetches, reads and writes. -/

namespace Sys2Proof.Claims

open Sys2Proof Sys2Proof.Machine

/-- Settles O12: by the charges of each mode. -/
theorem instructionCostsAreThoseOfTheTable : Obligations.InstructionCostsAreThoseOfTheTable := by
  unfold Obligations.InstructionCostsAreThoseOfTheTable
  intro i s t h
  obtain ⟨hcyc, hrem⟩ := exec_charges h
  obtain ⟨hlow, hhigh⟩ := tableCost_bounds i s
  exact ⟨hcyc, hrem, hlow, hhigh⟩

/-- Settles O13: the charge is the row of the cost table, and so is the number of cycles. -/
theorem costIsTheNumberOfCycles : Obligations.CostIsTheNumberOfCycles := by
  unfold Obligations.CostIsTheNumberOfCycles
  intro i s t h
  obtain ⟨hcyc, hrem⟩ := exec_charges h
  rw [length_accesses]
  omega

/-- Settles O14: the fetches mode by mode; of the cycles only the last of a store writes, which is the store's write. -/
theorem cyclesFetchTheInstructionAndMakeItsWrites : Obligations.CyclesFetchTheInstructionAndMakeItsWrites := by
  unfold Obligations.CyclesFetchTheInstructionAndMakeItsWrites
  intro i s t h
  refine ⟨filterMap_fetchedAddr_accesses i s, ?_⟩
  rcases dest_or_stored i.form.operation with ⟨r, hd⟩ | ⟨r, hs⟩
  · have hs := stored?_eq_none hd
    rw [exec_mem_of_stored?_eq_none h hs, foldl_applyAccess_of_no_write (write_notMem_accesses hs)]
  · obtain ⟨ea, hea, hmem⟩ := exec_mem_of_stored?_eq_some h hs
    rw [hmem, foldl_applyAccess_of_stored hs hea]

/-- Settles O15: the same instruction is fetched, it brings in the same value or stores at the same address, and the rest of
what it does is not taken from memory. -/
theorem stepsLookOnlyAtTheCellsOfTheirCycles : Obligations.StepsLookOnlyAtTheCellsOfTheirCycles := by
  unfold Obligations.StepsLookOnlyAtTheCellsOfTheirCycles
  intro s i rest m t he hd hm h
  have hi : fetchInstr s = some i := fetchInstr_eq_some.2 ⟨rest, hd⟩
  have hstep : step { s with mem := m } = exec i { s with mem := m } :=
    step_instr (s := { s with mem := m }) he (fetchInstr_of_looks hm hi)
  have hcost : tableCost i { s with mem := m } = tableCost i s := rfl
  rw [step_instr he hi] at h
  rw [hstep]
  rcases dest_or_stored i.form.operation with ⟨r, hdest⟩ | ⟨r, hs⟩
  · have hv := incoming_eq hdest h
    have hv' := (incoming_of_looks hm hdest).trans hv
    have hnone := write_notMem_accesses (s := s) (stored?_eq_none hdest)
    refine ⟨_, exec_of_dest hdest hv', ?_, fun addr v hw => absurd hw (hnone addr v)⟩
    rw [hcost]
    generalize getReg t r = v at hv ⊢
    rw [exec_of_dest hdest hv] at h
    cases h
    cases r <;> rfl
  · obtain ⟨ea, hea, -⟩ := exec_mem_of_stored?_eq_some h hs
    have hea' := (effectiveAddr_of_looks hm).trans hea
    refine ⟨_, exec_of_stored hs hea', ?_, fun addr v hw => ?_⟩
    · rw [hcost]
      rw [exec_of_stored hs hea] at h
      cases h
      rfl
    · obtain ⟨rfl, rfl⟩ := (write_mem_accesses hs hea).1 hw
      exact (Memory.read_write_same m addr _).trans (by cases r <;> rfl)

/-- Settles O33: the cell at the new PC holds the register stored; that byte is all of TAX, or it has no entry. -/
theorem nextFetchSeesTheStoredByte : Obligations.NextFetchSeesTheStoredByte := by
  unfold Obligations.NextFetchSeesTheStoredByte
  intro i r s t hi h hpc
  obtain ⟨hs, -⟩ := hi.stored_dest
  obtain ⟨ea, hea, hmem⟩ := exec_mem_of_stored?_eq_some h hs
  obtain rfl : t.pc = ea := Option.some.inj (hpc.symm.trans hea)
  have hbyte : t.mem.read t.pc = getReg s r := by rw [hmem, Memory.read_write_same]
  refine ⟨hbyte, fun he hr => step_instr he (fetchInstr_iff_codeAt.2 ?_), fun he hr => step_of_lookup_none he ?_⟩
  · have hcode : codeAt t 1 = [t.mem.read t.pc] := by simp [codeAt]
    exact hcode.trans (by rw [hbyte, hr]; rfl)
  · rw [hbyte, hr]
    decide

end Sys2Proof.Claims
end

section
/-! SUPPORT. The engine of the spec's pseudocode (spec/41_dispatch.md R112 to R114): on a row of a valid table it completes
at 2 to 6 cycles, and on an instruction of the default table it does what `exec` does. -/

namespace Sys2Proof.Claims

open Sys2Proof Sys2Proof.Machine

/-- Between the two states a number of cycles in these bounds was charged. -/
def Charged (low high : Int) (s u : State) : Prop :=
  ∃ n, low ≤ n ∧ n ≤ high ∧ u.rem = s.rem - n ∧ u.cyc = s.cyc + n

/-- One more cycle. -/
theorem Charged.succ {low high : Int} {s u v : State} (h : Charged low high s u) (hrem : v.rem = u.rem - 1)
    (hcyc : v.cyc = u.cyc + 1) : Charged (low + 1) (high + 1) s v := by
  obtain ⟨n, hlow, hhigh, hr, hc⟩ := h
  exact ⟨n + 1, by omega, by omega, by omega, by omega⟩

/-- The resolver answers in every mode but `IMP`: in `IMM` a literal for one cycle, else an address for one to four. -/
theorem resolve_charged (m : Mode) (s : State) (hm : m ≠ .imp) :
    (∃ v u, m = .imm ∧ resolve m s = some (.value v, u) ∧ Charged 1 1 s u) ∨
    (∃ ea u, m ≠ .imm ∧ resolve m s = some (.addr ea, u) ∧ Charged 1 4 s u) := by
  obtain ⟨himm, hzp, hzpx, hzpy, habs⟩ := directAndZeroPageModesResolve.1 s
  obtain ⟨habsx, habsy, hindx, hindy, -⟩ := indexedAbsoluteAndIndirectModesResolve s
  have hx := absCost_bounds (pointer s s.pc) s.x
  have hy := absCost_bounds (pointer s s.pc) s.y
  cases m with
  | imp => exact absurd rfl hm
  | imm => exact .inl ⟨_, _, rfl, himm, 1, by decide, by decide, rfl, rfl⟩
  | zp => exact .inr ⟨_, _, nofun, hzp, 1, by decide, by decide, rfl, rfl⟩
  | zpx => exact .inr ⟨_, _, nofun, hzpx, 2, by decide, by decide, rfl, rfl⟩
  | zpy => exact .inr ⟨_, _, nofun, hzpy, 2, by decide, by decide, rfl, rfl⟩
  | abs => exact .inr ⟨_, _, nofun, habs, 2, by decide, by decide, rfl, rfl⟩
  | absx => exact .inr ⟨_, _, nofun, habsx, _, by omega, by omega, rfl, rfl⟩
  | absy => exact .inr ⟨_, _, nofun, habsy, _, by omega, by omega, rfl, rfl⟩
  | indx => exact .inr ⟨_, _, nofun, hindx, 4, by decide, by decide, rfl, rfl⟩
  | indy => exact .inr ⟨_, _, nofun, hindy, 4, by decide, by decide, rfl, rfl⟩

/-- A load in any mode but `IMP` completes, for one to five cycles after the opcode fetch. -/
theorem engineLoad_charged (r : Reg) (m : Mode) (s : State) (hm : m ≠ .imp) :
    ∃ u, engineLoad r m s = some u ∧ Charged 1 5 s u := by
  obtain ⟨v, u, -, h, n, hlow, hhigh, hrem, hcyc⟩ | ⟨ea, u, -, h, hu⟩ := resolve_charged m s hm
  · exact ⟨_, by rw [engineLoad, h], n, hlow, by omega, by rwa [loadValue_rem], by rwa [loadValue_cyc]⟩
  · obtain ⟨n, hlow, hhigh, hrem, hcyc⟩ := hu.succ (loadFrom_rem r (ea, u)) (loadFrom_cyc r (ea, u))
    exact ⟨_, by rw [engineLoad, h], n, by omega, hhigh, hrem, hcyc⟩

/-- A store in any mode but `IMP` and `IMM` completes, for two to five cycles after the opcode fetch. -/
theorem engineStore_charged (r : Reg) (m : Mode) (s : State) (hm : m ≠ .imp) (hm' : m ≠ .imm) :
    ∃ u, engineStore r m s = some u ∧ Charged 2 5 s u := by
  obtain ⟨v, u, himm, -⟩ | ⟨ea, u, -, h, hu⟩ := resolve_charged m s hm
  · exact absurd himm hm'
  · exact ⟨_, by rw [engineStore, h], hu.succ (storeTo_rem r (ea, u)) (storeTo_cyc r (ea, u))⟩

/-- A transfer completes for one cycle after the opcode fetch. -/
theorem engineTransfer_charged (dst src : Reg) (s : State) :
    ∃ u, engineTransfer dst src .imp s = some u ∧ Charged 1 1 s u :=
  ⟨_, if_pos rfl, 1, by decide, by decide, transfer_rem dst src s, transfer_cyc dst src s⟩

/-- A pair that has a meaning is executed, for one to five cycles after the opcode fetch. -/
theorem execute_charged {op : Byte} {o : Operation} {m : Mode} (h : OpRow.meaningful ⟨op, o, m⟩ = true) (s : State) :
    ∃ u, execute o m s = some u ∧ Charged 1 5 s u := by
  cases o with
  | lda | ldx | ldy =>
    exact engineLoad_charged _ m s (by simpa [OpRow.meaningful] using h)
  | sta | stx | sty =>
    obtain ⟨hm, hm'⟩ : m ≠ .imp ∧ m ≠ .imm := by simpa [OpRow.meaningful] using h
    obtain ⟨u, hu, n, hlow, hhigh⟩ := engineStore_charged _ m s hm hm'
    exact ⟨u, hu, n, by omega, hhigh⟩
  | tax | tay | txa | tya =>
    obtain rfl : m = .imp := by simpa [OpRow.meaningful] using h
    obtain ⟨u, hu, n, hlow, hhigh, hcharge⟩ := engineTransfer_charged _ _ s
    exact ⟨u, hu, n, hlow, by omega, hcharge⟩

/-- What the engine does at a byte with an entry, from what it executes. -/
theorem engineStep_of_lookup {t : OpTable} {s u : State} {o : Operation} {m : Mode}
    (h : t.lookup (s.mem.read s.pc) = some (o, m)) (hu : execute o m (startInstr s) = some u) :
    engineStep t s = some (endInstr u) := by
  have hu' : execute o m (countOpcode (fetchOpcode s)) = some u := hu
  simp only [engineStep, h, hu']

/-- At a byte without an entry the engine halts. -/
theorem engineStep_of_lookup_none {t : OpTable} {s : State} (h : t.lookup (s.mem.read s.pc) = none) :
    engineStep t s = some (takeUnknownOpcode s) := by
  simp only [engineStep, h]
  rfl

/-- The operand the engine fetches after the opcode, by the format. -/
def fetchedOperand (f : Format) (s : State) : Operand :=
  match f with
  | .f1 => .none
  | .f2i | .f2z => .byte (fetchByte s).1
  | .f3 => .word (fetchWord s).1

/-- The operand the decoder takes from the bytes at `PC` is the one the engine fetches. -/
theorem operand_eq_fetchedOperand {f : Format} {s : State} {p : Operand} {rest : List Byte}
    (h : f.takeOperand [s.mem.read (s.pc + 1), s.mem.read (s.pc + 2)] = some (p, rest)) :
    p = fetchedOperand f (startInstr s) := by
  have hnext : s.pc + 1 + 1 = s.pc + 2 := by rw [BitVec.add_assoc]; rfl
  cases f with
  | f1 | f2i | f2z => cases h; rfl
  | f3 => cases h; rw [← hnext]; rfl

/-- Executing the pair of an instruction whose operand is the one fetched is that instruction's meaning. -/
theorem execute_eq_exec {i : Instr} {s : State}
    (h : i.form.operand = fetchedOperand i.form.mode.format (startInstr s)) :
    ∃ u, execute i.form.operation i.form.mode (startInstr s) = some u ∧ exec i s = .next (endInstr u) := by
  cases i <;> cases h <;> exact ⟨_, rfl, rfl⟩

end Sys2Proof.Claims
end

section
/-! SUPPORT. The statements about the engine of the spec's pseudocode. -/

namespace Sys2Proof.Claims

open Sys2Proof Sys2Proof.Machine

/-- Settles O5: a valid table has meaningful pairs only, and each of those is executed; a byte without an entry halts. -/
theorem anyValidTableRunsEveryOpcode : Obligations.AnyValidTableRunsEveryOpcode := by
  unfold Obligations.AnyValidTableRunsEveryOpcode
  refine ⟨opTable_valid, rfl, fun t ht s => ?_⟩
  obtain ⟨-, -, -, hmeaningful⟩ := ht
  cases hrow : t.lookup (s.mem.read s.pc) with
  | none => exact ⟨_, engineStep_of_lookup_none hrow, fun _ => takeUnknownOpcode_eq s, fun h => absurd rfl h⟩
  | some p =>
    obtain ⟨o, m⟩ := p
    obtain ⟨u, hu, n, hlow, hhigh, hrem, hcyc⟩ :=
      execute_charged (hmeaningful _ (OpTable.lookup_mem hrow)) (startInstr s)
    rw [startInstr_rem] at hrem
    rw [startInstr_cyc] at hcyc
    refine ⟨_, engineStep_of_lookup hrow hu, nofun, fun _ => ⟨endInstr_phase u, ?_⟩⟩
    rw [endInstr_rem, endInstr_cyc]
    omega

/-- Settles O11: the row found is the instruction's, the bytes fetched one at a time are its operand, and both halt at a
byte without an entry. -/
theorem stepRefinesThePseudocodeEngine : Obligations.StepRefinesThePseudocodeEngine := by
  unfold Obligations.StepRefinesThePseudocodeEngine
  intro s he
  cases hi : fetchInstr s with
  | none => exact ⟨_, engineStep_of_lookup_none (fetchInstr_eq_none.1 hi), step_unknown he hi⟩
  | some i =>
    obtain ⟨rest, hd⟩ := fetchInstr_eq_some.1 hi
    obtain ⟨op, bs, hbytes, hrow, htake⟩ := decode_eq_ok.1 hd
    cases hbytes
    obtain ⟨u, hu, hx⟩ := execute_eq_exec (operand_eq_fetchedOperand htake)
    exact ⟨endInstr u, engineStep_of_lookup hrow hu, (step_instr he hi).trans hx⟩

end Sys2Proof.Claims
end
